-- ==== Sys2Proof/Word.lean ====
section
/-! DEFINITION. The plain words of the WB-610: bytes, 16-bit codes, lane numbers and the tick in which the
model counts timers (00_scope.md, Conventions; 11 R194). -/

namespace Sys2Proof

/-- A byte of a frame or record (R179). -/
abbrev Byte := BitVec 8

/-- A 16-bit word: a check code, a set of lane groups, a CRC (R3, R7, R179). -/
abbrev Word16 := BitVec 16

/-- Lanes are numbered 0 to 9 (00_scope.md, Conventions). -/
abbrev LaneNo := Fin 10

/-- A time left, in ticks of 1/512,000 s. One millisecond is 512 ticks; 1/4,096 s is 125 ticks, so every
duration of the spec is a whole number of ticks. -/
abbrev Ticks := Nat

/-- A timer: running with a time left, or not running. -/
abbrev Timer := Option Ticks

end Sys2Proof
end

