-- ==== Sys2Proof/Syntax.lean ====
section
/-! DEFINITION. The commands of the WB-610: one constructor per row of spec/opcode_table.json, in the table's
order, with the operands of the event. The request handler takes the operands of a request from the oldest
frame of the receive buffer (R183; log 21); STATUS_READ has one beside, the blocks read (log 6).
The seven events that can lead to a judged claim carry whether the silence timer runs out between that claim and the
opening of its query (R123; log 7). -/

namespace Sys2Proof

/-- The lane of a last use: a lane of this entrance, or 15 for another entrance (R7). -/
inductive UseLane where
  | lane (l : LaneNo)
  | elsewhere
  deriving DecidableEq, Repr

/-- The lane and clock second of an entry's last committed use (R7). -/
structure LastUse where
  lane : UseLane
  time : Nat
  deriving DecidableEq, Repr

/-- A validity window in clock minutes (R7). -/
structure Window where
  fromMinute : Nat
  untilMinute : Nat
  deriving DecidableEq, Repr

/-- The values a memory fault leaves in one entry: the fields R5 lets it change. -/
structure Disturbance where
  cls : Fin 16
  groups : Word16
  window : Option Window
  verify : Bool
  lastUse : Option LastUse
  expiry : Nat
  deriving DecidableEq, Repr

/-- A block that STATUS READ reads (00_scope.md, The blocks; R190). -/
inductive StatusBlock where
  | serverLine | eventClock | gateInputs | credentialTable | tableSweep | verifyUnit | cardReaderBus
  | laneController (l : LaneNo)
  | rotorDecoder (l : LaneNo)
  | barcodePort (l : LaneNo)
  | signalUnit (l : LaneNo)
  deriving DecidableEq, Repr

/-- Every block that STATUS READ reads (00_scope.md, The blocks). -/
def StatusBlock.every : List StatusBlock :=
  [.serverLine, .eventClock, .gateInputs, .credentialTable, .tableSweep, .verifyUnit, .cardReaderBus]
    ++ ([0, 1, 2, 3, 4, 5, 6, 7, 8, 9] : List LaneNo).flatMap fun l =>
      [.laneController l, .rotorDecoder l, .barcodePort l, .signalUnit l]

/-- One constructor per row of spec/opcode_table.json. -/
inductive Instr where
  /-- POWER_ON (R177): the rotor lines A and B of each lane (bit l is lane l) and whether the emergency
  contact is open, as they stand at power-on. -/
  | powerOn (lineA lineB : BitVec 10) (contactOpen : Bool)
  /-- RECEIVER_BYTE (R180): the byte, and whether it came with a parity or framing error. -/
  | receiverByte (b : Byte) (lineError : Bool)
  /-- GAP_TIMEOUT (R181). -/
  | gapTimeout
  /-- SILENCE_TIMEOUT (R185). -/
  | silenceTimeout
  /-- TRANSMIT_ARBITER (R186): the line is free and the arbiter chooses. -/
  | transmitArbiter
  /-- RESTART_RESPONSE_SENT (R193). -/
  | restartResponseSent
  /-- UNKNOWN_TYPE (R184). -/
  | unknownType
  /-- PING (R189). -/
  | ping
  /-- STATUS_READ (R190): the blocks that the request reads at this moment; several commands read the blocks
  of one request in turn, or one command reads them all, which is what it does without the operand (log 6). -/
  | statusRead (blocks : List StatusBlock := StatusBlock.every)
  /-- GATE_CONFIGURE (R191). -/
  | gateConfigure
  /-- TIME_SET (R175). -/
  | timeSet
  /-- LANE_CONFIGURE (R52). -/
  | laneConfigure
  /-- LANE_OPEN (R73). -/
  | laneOpen
  /-- LANE_CLOSE (R74, R75). -/
  | laneClose
  /-- LANE_TEST_RELEASE (R77). -/
  | laneTestRelease
  /-- LANE_TEST_SIGNAL (R77). -/
  | laneTestSignal
  /-- LANE_TEST_TONE (R165). -/
  | laneTestTone
  /-- LANE_TEST_OFFSET (R77). -/
  | laneTestOffset
  /-- TABLE_LOAD (R11). -/
  | tableLoad
  /-- TABLE_LOAD_RECORD (R13): the next record of the TABLE LOAD in progress. -/
  | tableLoadRecord
  /-- TABLE_DELETE (R14). -/
  | tableDelete
  /-- TABLE_DELETE_KEY (R14): the next key of the TABLE DELETE in progress. -/
  | tableDeleteKey
  /-- TABLE_REVOKE (R15). -/
  | tableRevoke
  /-- TABLE_REVOKE_KEY (R15): the next key of the TABLE REVOKE in progress. -/
  | tableRevokeKey
  /-- ENTERED_ELSEWHERE (R16). -/
  | enteredElsewhere
  /-- PASSED_OUT_ELSEWHERE (R17). -/
  | passedOutElsewhere
  /-- TABLE_READ_BY_KEY (R18). -/
  | tableReadByKey
  /-- TABLE_READ_BY_BUCKET (R19). -/
  | tableReadByBucket
  /-- BUCKET_CLEAR (R20). -/
  | bucketClear
  /-- TABLE_CLEAR (R21). -/
  | tableClear
  /-- VERDICT (R126). -/
  | verdict
  /-- REMOTE_PRESENT (R118). -/
  | remotePresent (linkLost : Bool := false)
  /-- JOURNAL_READ (R151). -/
  | journalRead
  /-- COUNTERS_READ_KEEP (R154). -/
  | countersReadKeep
  /-- COUNTERS_READ_CLEAR (R154). -/
  | countersReadClear
  /-- COUNTERS_READ_LANE (R155): the next lane of the COUNTERS READ in progress. -/
  | countersReadLane
  /-- SWEEP_NOW (R143). -/
  | sweepNow
  /-- RESTART (R176). -/
  | restart
  /-- VERIFY_DEADLINE_EXPIRY (R132). -/
  | verifyDeadlineExpiry (lane : LaneNo)
  /-- ADMIT_WINDOW_EXPIRY (R70). -/
  | admitWindowExpiry (lane : LaneNo) (linkLost : Bool := false)
  /-- PASSAGE_LIMIT_EXPIRY (R71). -/
  | passageLimitExpiry (lane : LaneNo) (linkLost : Bool := false)
  /-- REFUSAL_DISPLAY_EXPIRY (R72). -/
  | refusalDisplayExpiry (lane : LaneNo) (linkLost : Bool := false)
  /-- NEXT_AGE_EXPIRY (R62). -/
  | nextAgeExpiry (lane : LaneNo)
  /-- REPEAT_TIMER_EXPIRY (R64). -/
  | repeatTimerExpiry (lane : LaneNo)
  /-- TEST_RELEASE_EXPIRY (R77). -/
  | testReleaseExpiry (lane : LaneNo)
  /-- ROTOR_LINE_CHANGE (R83): the new values of lines A and B. -/
  | rotorLineChange (lane : LaneNo) (lineA lineB : Bool) (linkLost : Bool := false)
  /-- BARCODE_CHARACTER (R103): the character, and whether it came with a framing error. -/
  | barcodeCharacter (lane : LaneNo) (c : Byte) (framingError : Bool) (linkLost : Bool := false)
  /-- POLL_SENT (R110). -/
  | pollSent
  /-- BUS_ANSWER (R111, R195): the bytes received on the bus up to the end of the answer frame. -/
  | busAnswer (bytes : List Byte) (linkLost : Bool := false)
  /-- POLL_WINDOW_EXPIRY (R110). -/
  | pollWindowExpiry
  /-- REPOLL_TIMER_EXPIRY (R116). -/
  | repollTimerExpiry (lane : LaneNo)
  /-- SWEEP_VISIT (R137). -/
  | sweepVisit
  /-- FAST_PASS_VISIT (R143). -/
  | fastPassVisit
  /-- MEMORY_FAULT (R5): the bucket, the values left in its entries in list order (an entry beyond the
  list is not disturbed), and the stored check code the fault leaves. -/
  | memoryFault (bucket : Fin 4096) (values : List Disturbance) (code : Word16)
  /-- EMERGENCY_CONTACT_CHANGE (R167): whether the contact now stands open, the asserted state. -/
  | emergencyContactChange (isOpen : Bool)
  /-- DEBOUNCE_EXPIRY (R167). -/
  | debounceExpiry
  /-- SUPPLY_SAMPLE (R172): the sample in units of 0.1 V, 0 to 400 (log 20). -/
  | supplySample (decivolts : Fin 401)
  /-- CLOCK_SECOND (R174). -/
  | clockSecond
  /-- TONE_PATTERN_END (R161). -/
  | tonePatternEnd (lane : LaneNo)
  /-- FLASH_PHASE (R158). -/
  | flashPhase (lane : LaneNo)
  deriving DecidableEq, Repr

end Sys2Proof
end

