-- ==== Sys2Proof/Config.lean ====
section
/-! DEFINITION. What the part fixes for good: its capacities (00_scope.md, Capacities at a glance) and the upper
bounds of its counts. The spec leaves no result of a command open, so there is no free value here
(INVENTORY.md, What the manual leaves open). The durations, which a repair may have to mend, stand in
Machine/Durations.lean. -/

namespace Sys2Proof.Config

/-- R1: at most 32 entries in a bucket. -/
abbrev bucketCapacity : Nat := 32
/-- R1: buckets 0 to 4,095. -/
abbrev bucketCount : Nat := 4096
/-- R147: the journal holds at most 16,384 records. -/
abbrev journalCapacity : Nat := 16384
/-- R187: the report queue holds at most 128 reports. -/
abbrev reportCapacity : Nat := 128
/-- R183: the response queue holds at most four responses. -/
abbrev responseCapacity : Nat := 4
/-- R182: the receive buffer holds at most two frames. -/
abbrev receiveCapacity : Nat := 2
/-- R103: a barcode line counts at most 24 characters. -/
abbrev lineCapacity : Nat := 24
/-- R174: the clock stays at 259,199 (three days less one second). -/
abbrev clockMax : Nat := 259199
/-- R7: the largest expiry, 259,199 plus 14,400. -/
abbrev expiryMax : Nat := 273599
/-- 00_scope.md: a clock minute is at most 4,319. -/
abbrev minuteMax : Nat := 4319
/-- R82, R102, R169, R187: 16-bit counts stay at 65,535. -/
abbrev count16Max : Nat := 65535
/-- R79, R150: 32-bit counts and sequence numbers end at 4,294,967,295. -/
abbrev count32Max : Nat := 4294967295

end Sys2Proof.Config
end

