-- ==== Sys2Proof/Machine/Types.lean ====
section
/-! DEFINITION. The vocabulary of the part: keys, entries, buckets, lanes and their units, frames, reports and records,
each under the spec's own name, as plain data. Their codes on the line stand in Machine/Layouts.lean. -/

namespace Sys2Proof.Machine

/-! ## Keys and presentations -/

/-- The kind of a key (00_scope.md, Credential keys). -/
inductive KeyKind where
  | barcode | card4 | card7 | card10
  deriving DecidableEq, Repr

/-- A key: a kind and ten key bytes, the first byte in the most significant place (00_scope.md). -/
structure Key where
  kind : KeyKind
  bytes : BitVec 80
  deriving DecidableEq, Repr

/-- Where a presentation came from; a barcode carries the check digit read with it (R32, R62). -/
inductive Source where
  | barcode (checkDigit : Nat)
  | bus
  | remote
  deriving DecidableEq, Repr

/-- One reading of a credential at a lane (R62). -/
structure Presentation where
  key : Key
  source : Source
  deriving DecidableEq, Repr

/-! ## The credential table -/

/-- What a hold, or a query, would admit the holder for (R23, R121). -/
inductive Purpose where
  | entry | passout
  deriving DecidableEq, Repr

/-- The prior state of a hold, with the prior expiry it carries (R23): OUTSIDE, INSIDE or OUT_ON_PASSOUT. -/
inductive Prior where
  | outside
  | inside
  | outOnPassout (expiry : Nat)
  deriving DecidableEq, Repr

/-- The hold record of a HELD entry, with the two marks that can stand only during a hold (R8, R23). -/
structure HoldRecord where
  lane : LaneNo
  purpose : Purpose
  prior : Prior
  revokePending : Bool
  enteredElsewhere : Bool
  deriving DecidableEq, Repr

/-- The six states of an entry. An expiry is present exactly in OUT_ON_PASSOUT, or as the prior expiry of a
hold taken from it, and a hold record exactly in HELD (R8): each stands with its state. -/
inductive EntryState where
  | outside
  | inside
  | outOnPassout (expiry : Nat)
  | spent
  | void
  | held (hold : HoldRecord)
  deriving DecidableEq, Repr

/-- The table's record of one credential (R7). -/
structure Entry where
  key : Key
  cls : Fin 16
  groups : Word16
  window : Option Window
  passouts : Fin 16
  verify : Bool
  state : EntryState
  lastUse : Option LastUse
  deriving DecidableEq, Repr

/-- A bucket: its entries in list order, its stored check code and its SUSPECT mark (R1, R3, R6). -/
structure Bucket where
  entries : List Entry
  code : Word16
  suspect : Bool
  deriving DecidableEq, Repr

/-- The credential table: the buckets that differ from the empty bucket, by rising bucket number, with the
entry count (R9) and the total number of SUSPECT buckets (R136). -/
structure Table where
  buckets : List (Nat × Bucket)
  entryCount : Nat
  suspectTotal : Nat
  deriving DecidableEq, Repr

/-! ## Lanes -/

/-- R52: which way a lane faces. -/
inductive Direction where
  | entry | exit
  deriving DecidableEq, Repr

/-- R52: where a lane's card presentations come from. -/
inductive CardSource where
  | none | bus | remote
  deriving DecidableEq, Repr

/-- The five settings of a lane (R52). -/
structure LaneConfig where
  direction : Direction
  group : Fin 16
  cardSource : CardSource
  barcodeOn : Bool
  freeExit : Bool
  deriving DecidableEq, Repr

/-- Why a lane is closed, or will close (R54, R55). -/
inductive ClosedCause where
  | host | fault | restart
  deriving DecidableEq, Repr

/-- What a FREE lane remembers for its return (R168). -/
inductive Remembered where
  | wasOpen
  | wasClosed (cause : ClosedCause)
  deriving DecidableEq, Repr

/-- The lane states (R54), each with what stands only in it: the closed cause in CLOSED and TEST (R55, R76),
the lane timer of RELEASED, PASSING and REFUSING (R70, R71, R72), what FREE remembers (R168). -/
inductive LaneState where
  | closed (cause : ClosedCause)
  | idle
  | verifying
  | released (admitWindow : Ticks)
  | passing (passageLimit : Ticks)
  | refusing (refusalDisplay : Ticks)
  | free (back : Remembered)
  | test (cause : ClosedCause)
  deriving DecidableEq, Repr

/-- A presentation in NEXT with its age timer; `none` once the timer has run out (R62, R69). -/
structure Waiting where
  presentation : Presentation
  age : Timer
  deriving DecidableEq, Repr

/-- The repeat memory's key with its repeat timer; the timer is `none` once it has run out (R64). -/
structure RepeatMemory where
  key : Key
  timer : Timer
  deriving DecidableEq, Repr

/-- The six lane counters (R79). -/
structure Counters where
  admitted : Nat
  passouts : Nat
  refused : Nat
  freeExits : Nat
  unpaid : Nat
  emergency : Nat
  deriving DecidableEq, Repr

/-- What a rotor decoder keeps (R82). -/
structure Rotor where
  lineA : Bool
  lineB : Bool
  offset : Int
  peak : Nat
  faults : Nat
  forced : Bool
  deriving DecidableEq, Repr

/-- What a barcode port keeps (R102). `counted` is the number of characters counted since the last end of
line, which a character with a framing error raises although it is not stored (R103; log 16). -/
structure Port where
  buffer : List Byte
  counted : Nat
  lineBad : Bool
  badCount : Nat
  fault : Bool
  deriving DecidableEq, Repr

/-- The offline re-poll timer: running, run out, or stopped (R108). -/
inductive RepollTimer where
  | stopped
  | running (left : Ticks)
  | runOut
  deriving DecidableEq, Repr

/-- A card reader as the bus keeps it (R108). -/
structure Reader where
  online : Bool
  misses : Nat
  repoll : RepollTimer
  deriving DecidableEq, Repr

/-- Why the host is asked (R121). -/
inductive QueryCause where
  | unknown | suspect | flagged
  deriving DecidableEq, Repr

/-- One query of the pending query table (R121). -/
structure Query where
  tag : Nat
  key : Key
  purpose : Purpose
  cause : QueryCause
  deadline : Ticks
  deriving DecidableEq, Repr

/-- The lamp signals (R158). -/
inductive Signal where
  | ready | wait | go | stop | free
  deriving DecidableEq, Repr

/-- The tone patterns (R161). -/
inductive Tone where
  | accept | refuse | error | attention
  deriving DecidableEq, Repr

/-- The flash phase of a flashing signal: which half, and the time left in it (R158). -/
structure FlashPhase where
  lit : Bool
  left : Ticks
  deriving DecidableEq, Repr

/-- A pattern being played and the time left of it; the progress R158 names is its length less this. -/
structure Playing where
  pattern : Tone
  left : Ticks
  deriving DecidableEq, Repr

/-- What a signal unit keeps (R158). -/
structure SignalUnit where
  shown : Signal
  flash : Option FlashPhase
  commanded : Signal
  tone : Option Playing
  deriving DecidableEq, Repr

/-- Everything the part keeps for one lane: the lane controller (R54), the lock driver's output (R98), the
rotor decoder (R82), the barcode port (R102), the card reader (R108), the lane's slot and counter in the
verify unit (R121), and the signal unit (R158). -/
structure Lane where
  config : LaneConfig
  state : LaneState
  closePending : Option ClosedCause
  hold : Option Key
  verified : Bool
  offlineAdmit : Bool
  current : Option Presentation
  next : Option Waiting
  repeatMemory : Option RepeatMemory
  counters : Counters
  testRelease : Timer
  lockOn : Bool
  rotor : Rotor
  port : Port
  reader : Reader
  slot : Option Query
  queryCounter : Fin 16
  signals : SignalUnit
  deriving DecidableEq, Repr

/-! ## Gate-wide units -/

/-- The offline policy (R46, R191). -/
inductive OfflinePolicy where
  | admitLocal | refuse
  deriving DecidableEq, Repr

/-- The ten gate settings, each in the unit R191 encodes it in. -/
structure Settings where
  admitWindow : Nat
  refusalDisplay : Nat
  passageLimit : Nat
  repeatWindow : Nat
  ageLimit : Nat
  verifyDeadline : Nat
  silenceTimeout : Nat
  passoutWindow : Nat
  sweepPeriod : Nat
  offlinePolicy : OfflinePolicy
  deriving DecidableEq, Repr

/-- A poll in flight: its reader, its answer window, `none` while POLL is still being sent (R108, R110), and
whether the lane's card source has been changed away from BUS since the poll began (R113, R117; log 13). -/
structure Poll where
  lane : LaneNo
  window : Timer
  leftBus : Bool
  deriving DecidableEq, Repr

/-- A VERIFY message in the outgoing query queue (R124, R125). -/
structure VerifyMessage where
  tag : Nat
  lane : LaneNo
  purpose : Purpose
  key : Key
  cause : QueryCause
  deriving DecidableEq, Repr

/-- A passage record of the journal (R148). -/
structure JournalRecord where
  sequence : Nat
  time : Nat
  lane : LaneNo
  purpose : Purpose
  key : Key
  cls : Fin 16
  revoked : Bool
  double : Bool
  verified : Bool
  offlineAdmit : Bool
  deriving DecidableEq, Repr

/-- The supply state (R172). -/
inductive SupplyState where
  | unknown | good | low
  deriving DecidableEq, Repr

/-! ## The server line -/

/-- A frame of the server line less START, LENGTH and CHECK, which follow from the rest (R179). -/
structure Frame where
  type : Byte
  tag : Byte
  payload : List Byte
  deriving DecidableEq, Repr

/-- The receiver: HUNTING, or RECEIVING with the bytes stored after START and the gap timer (R180). -/
inductive Receiver where
  | hunting
  | receiving (stored : List Byte) (gap : Ticks)
  deriving DecidableEq, Repr

/-- Whether the request handler may take frames: it waits for the RESTART response to be sent (R193), and
then, as after power-on, for the START report to be taken by the arbiter (R183). -/
inductive HandlerGate where
  | ready
  | awaitingRestartResponse
  | awaitingStart
  deriving DecidableEq, Repr

/-- A request in progress that is made of several operations (R183): the operations still to be taken and
the answers so far. -/
inductive Request where
  | load (tag : Byte) (todo : List (List Byte)) (statuses : List Byte)
  | delete (tag : Byte) (todo : List (List Byte)) (statuses : List Byte)
  | revoke (tag : Byte) (todo : List (List Byte)) (statuses : List Byte)
  | counters (tag : Byte) (clear : Bool) (todo : List LaneNo) (values : List Byte)
  /-- R190: for each part of the STATUS READ response in order, its bytes once its block has been read. -/
  | status (tag : Byte) (read : List (Option (List Byte)))
  deriving DecidableEq, Repr

/-- The report kinds (R188), in the order of their codes. -/
inductive ReportKind where
  | start | refused | abandoned | stalled | backturn | forced | unpaid | rotorFault | laneFault
  | barcodeFault | barcodeOk | readerOffline | readerOnline | readerFault | bucketSuspect
  | passoutExpired | sweepDone | emergencyStart | emergencyEnd | supply | link | lineError
  | reportsDropped
  deriving DecidableEq, Repr

/-- The key field of a report: none, a credential's key, or START's next sequence (R178, R187). -/
inductive ReportKey where
  | none
  | credential (key : Key)
  | sequence (next : Nat)
  deriving DecidableEq, Repr

/-- A report record (R187). -/
structure Report where
  kind : ReportKind
  lane : Option LaneNo
  time : Option Nat
  reason : Nat
  count : Nat
  key : ReportKey
  deriving DecidableEq, Repr

/-- The refusal reasons (R50), in the order of their codes. -/
inductive Reason where
  | lowSupply | badCode | unknownOffline | inUse | void | spent | wrongEntrance | tooEarly | tooLate
  | alreadyInside | passoutExpired | noPassoutLeft | notInside | offline | hostRefused | noVerdict
  | tableFull | notReady
  deriving DecidableEq, Repr

/-- The result codes (R194, Codes). -/
inductive ResultCode where
  | ok | badRequest | badValue | notReady | wrongState | held | full | suspect | notFound | unmatched
  | closePending | partialOk | overwritten | taken | repeated
  deriving DecidableEq, Repr

/-- Everything the WB-610 keeps: the state of the part itself. -/
structure Wb610 where
  settings : Settings
  table : Table
  lanes : Vector Lane 10
  pollPointer : LaneNo
  poll : Option Poll
  verifyQueue : List VerifyMessage
  sweepPointer : Fin 4096
  visitTimer : Timer
  fastPass : Bool
  fastStart : Fin 4096
  fastCount : Nat
  journal : List JournalRecord
  nextSequence : Nat
  rawEmergency : Bool
  emergency : Bool
  debounce : Timer
  supply : SupplyState
  lastSample : Nat
  sampleTimer : Ticks
  tally : Nat
  clock : Option Nat
  secondTimer : Timer
  receiver : Receiver
  rxBuffer : List Frame
  handler : HandlerGate
  request : Option Request
  responses : List Frame
  reports : List Report
  dropCount : Nat
  sending : Option Frame
  online : Bool
  silence : Timer
  restartReleased : Nat
  deriving DecidableEq, Repr

end Sys2Proof.Machine
end

