-- ==== Sys2Proof/Machine/Durations.lean ====
section
/-! DEFINITION. The durations of the part's timers in ticks of 1/512,000 s (log 1): the fixed ones, and those the gate
settings give (R191). -/

namespace Sys2Proof.Machine

/-- One millisecond is 512 ticks. -/
def ms (n : Nat) : Ticks := 512 * n
/-- One second is 512,000 ticks. -/
def seconds (n : Nat) : Ticks := ms (1000 * n)

/-- R180: the gap timer runs 20 ms. -/
def gapTime : Ticks := ms 20
/-- R167: the debounce timer runs 50 ms. -/
def debounceTime : Ticks := ms 50
/-- R172: the supply is sampled every 100 ms. -/
def sampleTime : Ticks := ms 100
/-- R110: the answer window lasts 10 ms. -/
def answerWindowTime : Ticks := ms 10
/-- R115: the re-poll timer runs 1 s. -/
def repollTime : Ticks := seconds 1
/-- R158: each half of a flash cycle lasts 500 ms. -/
def flashHalf : Ticks := ms 500

/-- R161: the length of each pattern. -/
def Tone.length : Tone → Ticks
  | .accept => ms 125
  | .refuse => ms 500
  | .error => ms 400
  | .attention => ms 3000

/-- R70: the admit window, in seconds. -/
def Settings.admitTime (c : Settings) : Ticks := seconds c.admitWindow
/-- R72: the refusal display, in units of 100 ms. -/
def Settings.refusalTime (c : Settings) : Ticks := ms (100 * c.refusalDisplay)
/-- R71: the passage limit, in seconds. -/
def Settings.passageTime (c : Settings) : Ticks := seconds c.passageLimit
/-- R64: the repeat window, in units of 100 ms. -/
def Settings.repeatTime (c : Settings) : Ticks := ms (100 * c.repeatWindow)
/-- R62: the next-slot age limit, in seconds. -/
def Settings.ageTime (c : Settings) : Ticks := seconds c.ageLimit
/-- R123: the verify deadline, in milliseconds. -/
def Settings.deadlineTime (c : Settings) : Ticks := ms c.verifyDeadline
/-- R185: the silence timeout, in seconds. -/
def Settings.silenceTime (c : Settings) : Ticks := seconds c.silenceTimeout
/-- R137: the visit interval, the sweep period divided by 4,096: 125 ticks for each second. -/
def Settings.visitTime (c : Settings) : Ticks := 125 * c.sweepPeriod
/-- R25: the passout window in clock seconds. -/
def Settings.passoutSeconds (c : Settings) : Nat := 60 * c.passoutWindow

end Sys2Proof.Machine
end

