-- ==== Sys2Proof/Machine/Flags.lean ====
section
/-! DEFINITION. What follows from the lane state: which states are open, the lock output (R98), the signal shown (R159),
the lamps (R158) and the sounder (R161). -/

namespace Sys2Proof.Machine

/-- The open states (R54): IDLE, VERIFYING, RELEASED, PASSING and REFUSING. -/
def LaneState.isOpen : LaneState → Bool
  | .idle => true | .verifying => true | .released _ => true | .passing _ => true | .refusing _ => true
  | .closed _ => false | .free _ => false | .test _ => false

/-- The states in which forward movement is nobody's passage (R90): IDLE, VERIFYING, REFUSING and CLOSED. -/
def LaneState.isUnadmitted : LaneState → Bool
  | .idle => true | .verifying => true | .refusing _ => true | .closed _ => true
  | .released _ => false | .passing _ => false | .free _ => false | .test _ => false

/-- Whether a lane is FREE. -/
def LaneState.isFree : LaneState → Bool
  | .free _ => true
  | .closed _ => false | .idle => false | .verifying => false | .released _ => false | .passing _ => false
  | .refusing _ => false | .test _ => false

/-- Whether a lane is CLOSED. -/
def LaneState.isClosed : LaneState → Bool
  | .closed _ => true
  | .free _ => false | .idle => false | .verifying => false | .released _ => false | .passing _ => false
  | .refusing _ => false | .test _ => false

/-- Whether a lane is VERIFYING. -/
def LaneState.isVerifying : LaneState → Bool
  | .verifying => true
  | .free _ => false | .idle => false | .closed _ => false | .released _ => false | .passing _ => false
  | .refusing _ => false | .test _ => false

/-- R98: the lock release output that a lane's state, configuration and test release call for. -/
def lockFor (c : LaneConfig) (testRelease : Timer) : LaneState → Bool
  | .released _ => true
  | .passing _ => true
  | .free _ => true
  | .test _ => testRelease.isSome
  | .closed _ => false
  | .idle => decide (c.direction = .exit) && c.freeExit
  | .verifying => decide (c.direction = .exit) && c.freeExit
  | .refusing _ => decide (c.direction = .exit) && c.freeExit

/-- R159, R160: the signal that a lane's state and commanded signal call for. -/
def signalFor (commanded : Signal) : LaneState → Signal
  | .idle => .ready
  | .verifying => .wait
  | .released _ => .go
  | .passing _ => .go
  | .refusing _ => .stop
  | .closed _ => .stop
  | .free _ => .free
  | .test _ => commanded

/-- R158: WAIT and FREE flash. -/
def Signal.flashes : Signal → Bool
  | .wait => true | .free => true
  | .ready => false | .go => false | .stop => false

/-- R158: a signal newly shown begins its cycle with the on half; one already shown keeps its phase, at the entry to
FREE of a TEST lane that shows FREE too (DESIGN CHOICE, log 24). -/
def SignalUnit.display (u : SignalUnit) (s : Signal) : SignalUnit :=
  if u.shown = s then u
  else { u with shown := s, flash := if s.flashes then some { lit := true, left := flashHalf } else none }

/-- R98, R159: the outputs of a lane set in the event that changes its state. -/
def Lane.sync (x : Lane) : Lane :=
  { x with
    lockOn := lockFor x.config x.testRelease x.state
    signals := x.signals.display (signalFor x.signals.commanded x.state) }

/-! ## The lines on the lane connector -/

/-- The three lamps (R158). -/
structure Lamps where
  red : Bool
  amber : Bool
  green : Bool
  deriving DecidableEq, Repr

/-- R158: the lamps a signal lights; a flashing lamp is lit in the on half of its cycle. -/
def SignalUnit.lamps (u : SignalUnit) : Lamps :=
  let lit := u.flash.all (·.lit)
  match u.shown with
  | .ready => { red := false, amber := true, green := false }
  | .wait => { red := false, amber := lit, green := false }
  | .go => { red := false, amber := false, green := true }
  | .stop => { red := true, amber := false, green := false }
  | .free => { red := false, amber := false, green := lit }

/-- Pitch of a burst (R161). -/
inductive Pitch where
  | high | low
  deriving DecidableEq, Repr

/-- Level of a burst (R161). -/
inductive Level where
  | full | medium | soft
  deriving DecidableEq, Repr

/-- One burst of a pattern: from, until, pitch and level (R161). -/
structure Burst where
  start : Ticks
  stop : Ticks
  pitch : Pitch
  level : Level
  deriving DecidableEq, Repr

/-- R161: the bursts of each pattern. -/
def Tone.bursts : Tone → List Burst
  | .accept => [⟨ms 0, ms 125, .high, .full⟩]
  | .refuse => [⟨ms 0, ms 100, .high, .full⟩, ⟨ms 200, ms 300, .high, .medium⟩, ⟨ms 400, ms 500, .high, .soft⟩]
  | .error => [⟨ms 0, ms 400, .low, .full⟩]
  | .attention =>
    [⟨ms 0, ms 250, .high, .full⟩, ⟨ms 500, ms 750, .high, .full⟩, ⟨ms 1000, ms 1250, .high, .full⟩,
     ⟨ms 1500, ms 1750, .high, .full⟩, ⟨ms 2000, ms 2250, .high, .full⟩, ⟨ms 2500, ms 2750, .high, .full⟩]

/-- R158: the tone progress, the time since the pattern began. -/
def Playing.progress (p : Playing) : Ticks := p.pattern.length - p.left

/-- R161: what the sounder gives at this moment, or silence. -/
def SignalUnit.sounder (u : SignalUnit) : Option (Pitch × Level) :=
  u.tone.bind fun p =>
    (p.pattern.bursts.find? fun b => decide (b.start ≤ p.progress) && decide (p.progress < b.stop)).map
      fun b => (b.pitch, b.level)

end Sys2Proof.Machine
end

