-- ==== Sys2Proof/Machine/Layouts.lean ====
section
/-! DEFINITION. The Layouts section of the spec (11.8, R194): codes, byte order, and what each frame and record of the
server line holds when the part writes it; the check sequences (R3, R179, R195) over those bytes. -/

namespace Sys2Proof.Machine

/-! ## Byte order: most significant byte first, everywhere -/

/-- `n` in `size` bytes, most significant first. -/
def beBytes : (size n : Nat) → List Byte
  | 0, _ => []
  | k + 1, n => BitVec.ofNat 8 (n / 256 ^ k) :: beBytes k n

/-- The number that bytes stand for, most significant first, continuing from `acc`. -/
def beNatFrom (acc : Nat) : List Byte → Nat
  | [] => acc
  | b :: rest => beNatFrom (256 * acc + b.toNat) rest

/-- The number that bytes stand for, most significant first. -/
def beNat (bytes : List Byte) : Nat := beNatFrom 0 bytes

/-- The unsigned field of `size` bytes at offset `off`. -/
def fieldAt (bytes : List Byte) (off size : Nat) : Nat := beNat ((bytes.drop off).take size)

/-- One byte holding a small number. -/
def byte (n : Nat) : Byte := BitVec.ofNat 8 n

/-- A flag byte. -/
def flagByte (b : Bool) : Byte := if b then 1 else 0

/-- A four-byte field that may be absent (R194: 0xFFFFFFFF). -/
def optional32 (v : Option Nat) : List Byte := beBytes 4 (v.getD 0xFFFFFFFF)

/-! ## CRC-16 (R179): polynomial 0x1021, initial value 0xFFFF, most significant bit first -/

/-- One bit of the CRC. -/
def crcShift (crc : Word16) : Word16 :=
  if crc.msb then (crc <<< 1) ^^^ 0x1021#16 else crc <<< 1

/-- `n` bits of the CRC. -/
def crcShifts : Nat → Word16 → Word16
  | 0, crc => crc
  | n + 1, crc => crcShifts n (crcShift crc)

/-- One byte of the CRC. -/
def crcByte (crc : Word16) (b : Byte) : Word16 :=
  crcShifts 8 (crc ^^^ (b.setWidth 16 <<< 8))

/-- The CRC over bytes, from a value on. -/
def crcFrom (crc : Word16) : List Byte → Word16
  | [] => crc
  | b :: rest => crcFrom (crcByte crc b) rest

/-- The CRC-16 of R179 over bytes. -/
def crc16 (bytes : List Byte) : Word16 := crcFrom 0xFFFF#16 bytes

/-- R195: the exclusive-or of bytes, further exclusive-ored with 0x55. -/
def busCheck (bytes : List Byte) : Byte := bytes.foldl (· ^^^ ·) 0x55#8

/-! ## Codes -/

/-- R194, Codes: kind. -/
def KeyKind.code : KeyKind → Nat
  | .barcode => 1 | .card4 => 2 | .card7 => 3 | .card10 => 4

/-- The kind of a code, if the code is listed. -/
def KeyKind.ofCode : Nat → Option KeyKind
  | 1 => some .barcode | 2 => some .card4 | 3 => some .card7 | 4 => some .card10 | _ => none

/-- R194, Codes: purpose. -/
def Purpose.code : Purpose → Nat
  | .entry => 1 | .passout => 2

/-- R194, Codes: the entry state, as the prior state of a hold. -/
def Prior.code : Prior → Nat
  | .outside => 1 | .inside => 2 | .outOnPassout _ => 3

/-- R194, Codes: entry state. -/
def EntryState.code : EntryState → Nat
  | .outside => 1 | .inside => 2 | .outOnPassout _ => 3 | .spent => 4 | .void => 5 | .held _ => 6

/-- R194, Codes: query cause. -/
def QueryCause.code : QueryCause → Nat
  | .unknown => 1 | .suspect => 2 | .flagged => 3

/-- R194, Codes: lane state. -/
def LaneState.code : LaneState → Nat
  | .closed _ => 0 | .idle => 1 | .verifying => 2 | .released _ => 3 | .passing _ => 4 | .refusing _ => 5
  | .free _ => 6 | .test _ => 7

/-- R194, Codes: closed cause. -/
def ClosedCause.code : ClosedCause → Nat
  | .host => 1 | .fault => 2 | .restart => 3

/-- The closed cause in the STATUS READ response: 0 outside CLOSED and TEST. -/
def LaneState.causeCode : LaneState → Nat
  | .closed c => c.code | .test c => c.code
  | .idle => 0 | .verifying => 0 | .released _ => 0 | .passing _ => 0 | .refusing _ => 0 | .free _ => 0

/-- R194, Codes: signal. -/
def Signal.code : Signal → Nat
  | .ready => 1 | .wait => 2 | .go => 3 | .stop => 4 | .free => 5

/-- The signal of a code, if the code is listed. -/
def Signal.ofCode : Nat → Option Signal
  | 1 => some .ready | 2 => some .wait | 3 => some .go | 4 => some .stop | 5 => some .free | _ => none

/-- R194, Codes: tone (none is 0). -/
def Tone.code : Tone → Nat
  | .accept => 1 | .refuse => 2 | .error => 3 | .attention => 4

/-- The tone of a code, if it is one of the four patterns. -/
def Tone.ofCode : Nat → Option Tone
  | 1 => some .accept | 2 => some .refuse | 3 => some .error | 4 => some .attention | _ => none

/-- R194, Codes: link, ONLINE 1 and OFFLINE 2; the reader states have the same codes. -/
def onlineCode (online : Bool) : Nat := if online then 1 else 2

/-- R194, Codes: supply state. -/
def SupplyState.code : SupplyState → Nat
  | .unknown => 0 | .good => 1 | .low => 2

/-- R188, report kind codes. -/
def ReportKind.code : ReportKind → Nat
  | .start => 1 | .refused => 2 | .abandoned => 3 | .stalled => 4 | .backturn => 5 | .forced => 6
  | .unpaid => 7 | .rotorFault => 8 | .laneFault => 9 | .barcodeFault => 10 | .barcodeOk => 11
  | .readerOffline => 12 | .readerOnline => 13 | .readerFault => 14 | .bucketSuspect => 15
  | .passoutExpired => 16 | .sweepDone => 17 | .emergencyStart => 18 | .emergencyEnd => 19
  | .supply => 20 | .link => 21 | .lineError => 22 | .reportsDropped => 23

/-- R50: the refusal reason codes. -/
def Reason.code : Reason → Nat
  | .lowSupply => 1 | .badCode => 2 | .unknownOffline => 3 | .inUse => 4 | .void => 5 | .spent => 6
  | .wrongEntrance => 7 | .tooEarly => 8 | .tooLate => 9 | .alreadyInside => 10 | .passoutExpired => 11
  | .noPassoutLeft => 12 | .notInside => 13 | .offline => 14 | .hostRefused => 15 | .noVerdict => 16
  | .tableFull => 17 | .notReady => 18

/-- R194, Codes: result. -/
def ResultCode.code : ResultCode → Byte
  | .ok => 0 | .badRequest => 1 | .badValue => 2 | .notReady => 3 | .wrongState => 4 | .held => 5
  | .full => 6 | .suspect => 7 | .notFound => 8 | .unmatched => 9 | .closePending => 10
  | .partialOk => 11 | .overwritten => 12 | .taken => 13 | .repeated => 14

/-! ## Records the part writes -/

/-- The key bytes of a key, first byte first. -/
def Key.tenBytes (k : Key) : List Byte := beBytes 10 k.bytes.toNat

/-- A kind byte and ten key bytes. -/
def Key.record (k : Key) : List Byte := byte k.kind.code :: k.tenBytes

/-- A last-use lane: 15 for another entrance (R7). -/
def useLaneCode : UseLane → Nat
  | .lane l => l.val | .elsewhere => 15

/-- Entry record offset 22: purpose in the upper four bits, prior state in the lower four (R194). -/
def HoldRecord.holdByte (h : HoldRecord) : Byte := byte (16 * h.purpose.code + h.prior.code)

/-- The expiry a prior state carries (R23). -/
def Prior.expiry : Prior → Option Nat
  | .outside => none | .inside => none | .outOnPassout x => some x

/-- The expiry an entry carries: its own, or the prior expiry of its hold (R8). -/
def EntryState.expiry : EntryState → Option Nat
  | .outOnPassout x => some x | .held h => h.prior.expiry
  | .outside => none | .inside => none | .spent => none | .void => none

/-- The hold record of an entry state. -/
def EntryState.hold : EntryState → Option HoldRecord
  | .held h => some h
  | .outOnPassout _ => none | .outside => none | .inside => none | .spent => none | .void => none

/-- Whether an entry is HELD. -/
def Entry.isHeld (e : Entry) : Bool := e.state.hold.isSome

/-- Entry record offset 19: bit 0 verify, bit 1 revoke-pending, bit 2 entered-elsewhere. -/
def Entry.flagsByte (e : Entry) : Byte :=
  let h := e.state.hold
  byte ((if e.verify then 1 else 0) + (if h.any (·.revokePending) then 2 else 0)
    + (if h.any (·.enteredElsewhere) then 4 else 0))

/-- The 32-byte entry record (R194). -/
def Entry.record (e : Entry) : List Byte :=
  e.key.record
    ++ [byte e.cls.val]
    ++ beBytes 2 e.groups.toNat
    ++ beBytes 2 (e.window.elim 0xFFFF (·.fromMinute))
    ++ beBytes 2 (e.window.elim 0xFFFF (·.untilMinute))
    ++ [byte e.passouts.val, e.flagsByte, byte e.state.code,
        byte (e.state.hold.elim 0xFF (·.lane.val)), e.state.hold.elim 0 (·.holdByte)]
    ++ optional32 e.state.expiry
    ++ [byte (e.lastUse.elim 0xFF fun u => useLaneCode u.lane)]
    ++ optional32 (e.lastUse.map (·.time))

/-- The bytes the check code of a bucket is computed over (R3). -/
def entryBytes (entries : List Entry) : List Byte := entries.flatMap Entry.record

/-- R3: the check code of a list of entries. -/
def checkCode (entries : List Entry) : Word16 := crc16 (entryBytes entries)

/-- Journal record offset 22. -/
def JournalRecord.flagsByte (r : JournalRecord) : Byte :=
  byte ((if r.revoked then 1 else 0) + (if r.double then 2 else 0) + (if r.verified then 4 else 0)
    + (if r.offlineAdmit then 8 else 0))

/-- The 24-byte journal record (R194); the last byte is fill. -/
def JournalRecord.record (r : JournalRecord) : List Byte :=
  beBytes 4 r.sequence ++ beBytes 4 r.time ++ [byte r.lane.val, byte r.purpose.code] ++ r.key.record
    ++ [byte r.cls.val, r.flagsByte, 0]

/-- The key fields of a report record: kind and ten bytes (R178, R194). -/
def ReportKey.record : ReportKey → List Byte
  | .none => beBytes 11 0
  | .credential k => k.record
  | .sequence n => [0] ++ beBytes 4 n ++ beBytes 6 0

/-- The 20-byte report record (R194). -/
def Report.record (r : Report) : List Byte :=
  [byte r.kind.code, byte (r.lane.elim 0xFF (·.val))] ++ optional32 r.time ++ [byte r.reason]
    ++ beBytes 2 r.count ++ r.key.record

/-- The 15-byte VERIFY message (R194). -/
def VerifyMessage.record (m : VerifyMessage) : List Byte :=
  [byte m.tag, byte m.lane.val, byte m.purpose.code] ++ m.key.record ++ [byte m.cause.code]

/-! ## Frames -/

/-- LENGTH counts TYPE, TAG and the payload (R179). -/
def Frame.length (f : Frame) : Nat := f.payload.length + 2

/-- The bytes CHECK is computed over (R179). -/
def Frame.checkedBytes (f : Frame) : List Byte := beBytes 2 f.length ++ [f.type, f.tag] ++ f.payload

/-- The bytes of a frame after START. -/
def Frame.bytesAfterStart (f : Frame) : List Byte :=
  f.checkedBytes ++ beBytes 2 (crc16 f.checkedBytes).toNat

/-- R179: START. -/
def startByte : Byte := 0xA5#8

/-- All the bytes of a frame on the line (R179). -/
def Frame.bytes (f : Frame) : List Byte := startByte :: f.bytesAfterStart

/-- R194: a VERIFY message as a frame, its tag byte the query tag (R125). -/
def VerifyMessage.frame (m : VerifyMessage) : Frame := { type := 0x60#8, tag := byte m.tag, payload := m.record }

/-- R194: a report as a frame, with TAG 0 (R187). -/
def Report.frame (r : Report) : Frame := { type := 0x61#8, tag := 0, payload := r.record }

/-- R195: the bytes of POLL to a reader. -/
def pollBytes (l : LaneNo) : List Byte := [0xC3#8, byte l.val, busCheck [byte l.val]]

end Sys2Proof.Machine
end

