-- ==== Sys2Proof/Machine/Operands.lean ====
section
/-! DEFINITION. The operand forms: how the part reads the fields of the frames and records it receives (R194), with the
ranges the owning rules give them. A field outside its list answers `none`. -/

namespace Sys2Proof.Machine

/-! ## Plain fields -/

/-- The one-byte field at an offset. -/
def byteAt (payload : List Byte) (off : Nat) : Nat := fieldAt payload off 1

/-- A lane number byte; more than 9 is out of range (R52, R73, R74, R76, R118). -/
def laneOf (n : Nat) : Option LaneNo := if h : n < 10 then some ⟨n, h⟩ else none

/-- A lane group or class or passouts byte, 0-15 (R7, R52). -/
def nibbleOf (n : Nat) : Option (Fin 16) := if h : n < 16 then some ⟨n, h⟩ else none

/-- A bucket number, 0-4,095 (R19, R20). -/
def bucketNoOf (n : Nat) : Option (Fin 4096) := if h : n < 4096 then some ⟨n, h⟩ else none

/-- A no or yes, OFF or ON code (R194, Codes). -/
def boolOf : Nat → Option Bool
  | 0 => some false | 1 => some true | _ => none

/-- R194, Codes: direction. -/
def directionOf : Nat → Option Direction
  | 1 => some .entry | 2 => some .exit | _ => none

/-- R194, Codes: card source. -/
def cardSourceOf : Nat → Option CardSource
  | 0 => some .none | 1 => some .bus | 2 => some .remote | _ => none

/-- R194, Codes: offline policy. -/
def policyOf : Nat → Option OfflinePolicy
  | 1 => some .admitLocal | 2 => some .refuse | _ => none

/-- A value within an inclusive range. -/
def inRange (lo hi n : Nat) : Bool := decide (lo ≤ n) && decide (n ≤ hi)

/-! ## Keys -/

/-- The key at an offset: a kind byte and ten key bytes; `none` when the kind is not 1 to 4. -/
def keyAt (payload : List Byte) (off : Nat) : Option Key :=
  (KeyKind.ofCode (byteAt payload off)).map fun k =>
    { kind := k, bytes := BitVec.ofNat 80 (fieldAt payload (off + 1) 10) }

/-- The padding a kind requires to be zero (R12): key bytes 1 and 2 of a BARCODE, 5 to 10 of a CARD4, 8 to
10 of a CARD7. -/
def Key.paddingZero (k : Key) : Bool :=
  match k.kind with
  | .barcode => decide (k.bytes >>> 64 = 0#80)
  | .card4 => decide (k.bytes &&& 0xFFFFFFFFFFFF#80 = 0#80)
  | .card7 => decide (k.bytes &&& 0xFFFFFF#80 = 0#80)
  | .card10 => true

/-- 00_scope.md, Bucket number: the five words of the key bytes and the kind code combined by exclusive-or,
modulo 4,096. -/
def bucketOf (k : Key) : Nat :=
  let word (i : Nat) : Word16 := (k.bytes >>> (16 * i)).setWidth 16
  (word 0 ^^^ word 1 ^^^ word 2 ^^^ word 3 ^^^ word 4 ^^^ BitVec.ofNat 16 k.kind.code).toNat % 4096

/-- R106, 00_scope.md: the key of a barcode whose data digits make this integer. -/
def barcodeKey (n : Nat) : Key := { kind := .barcode, bytes := (BitVec.ofNat 64 n).setWidth 80 }

/-- R113: the key of a card whose identity bytes are these: left-aligned with zero bytes after. -/
def cardKey (kind : KeyKind) (identity : List Byte) : Key :=
  { kind := kind, bytes := BitVec.ofNat 80 (beNat identity * 256 ^ (10 - identity.length)) }

/-- R113: the kind of a card by the length of its identity. -/
def cardKindOf : Nat → Option KeyKind
  | 4 => some .card4 | 7 => some .card7 | 10 => some .card10 | _ => none

/-! ## Barcode digits -/

/-- R35: the weighted sum of the decimal digits of `n`, the rightmost with weight `w` and the next with the
other of 3 and 1; `fuel` bounds the number of digits. -/
def weightedSum : (fuel n w : Nat) → Nat
  | 0, _, _ => 0
  | fuel + 1, n, w => (n % 10) * w + weightedSum fuel (n / 10) (4 - w)

/-- R35: the check digit computed over the data digits that make the integer `n`. Leading zeros add nothing
to the sum, so the integer is enough (log 19). 18 data digits need 18 places; 20 cover any 64-bit integer. -/
def checkDigitOf (n : Nat) : Nat := (10 - weightedSum 20 n 3 % 10) % 10

/-- A character that is a digit. -/
def isDigit (c : Byte) : Bool := inRange 48 57 c.toNat

/-- R106: digits read as an unsigned decimal integer. -/
def decimalFrom (acc : Nat) : List Byte → Nat
  | [] => acc
  | c :: rest => decimalFrom (10 * acc + (c.toNat - 48)) rest

/-! ## Entry records (R12) -/

/-- R12, R194: the window of a record. Outer `none`: one minute without the other, a minute more than 4,319,
or from later than until. -/
def windowOf (f u : Nat) : Option (Option Window) :=
  if f = 0xFFFF ∧ u = 0xFFFF then some none
  else if f ≤ u ∧ u ≤ Config.minuteMax then some (some { fromMinute := f, untilMinute := u })
  else none

/-- R12, R194: the last-use lane of a record, when present. -/
def useLaneOf (n : Nat) : Option UseLane :=
  if n = 15 then some .elsewhere else (laneOf n).map .lane

/-- R12, R194: the last use of a record. Outer `none`: a lane without a time or a time without a lane, a lane
that is neither 0-9 nor 15, or a time of more than 259,199. -/
def lastUseOf (lane time : Nat) : Option (Option LastUse) :=
  if lane = 0xFF ∧ time = 0xFFFFFFFF then some none
  else if lane = 0xFF ∨ time = 0xFFFFFFFF ∨ Config.clockMax < time then none
  else (useLaneOf lane).map fun l => some { lane := l, time := time }

/-- R12: the state of a record with its expiry, which is present exactly for OUT_ON_PASSOUT and at most
273,599; HELD and unlisted states are refused. -/
def entryStateOf (state expiry : Nat) : Option EntryState :=
  if state = 3 then (if expiry ≤ Config.expiryMax then some (.outOnPassout expiry) else none)
  else if expiry ≠ 0xFFFFFFFF then none
  else match state with
    | 1 => some .outside
    | 2 => some .inside
    | 4 => some .spent
    | 5 => some .void
    | _ => none

/-- R12: no hold lane, no hold purpose or prior state, neither mark set. The spare flag bits are ignored
(R194). -/
def recordHoldsNothing (r : List Byte) : Bool :=
  decide (byteAt r 21 = 0xFF) && decide (byteAt r 22 = 0) && !(byteAt r 19).testBit 1 && !(byteAt r 19).testBit 2

/-- R12: the entry of a 32-byte record, or `none` where any check of R12 fails. -/
def entryOfRecord (r : List Byte) : Option Entry := do
  let key ← keyAt r 0
  let cls ← nibbleOf (byteAt r 11)
  let window ← windowOf (fieldAt r 14 2) (fieldAt r 16 2)
  let passouts ← nibbleOf (byteAt r 18)
  let state ← entryStateOf (byteAt r 20) (fieldAt r 23 4)
  let lastUse ← lastUseOf (byteAt r 27) (fieldAt r 28 4)
  if key.paddingZero && recordHoldsNothing r then
    some { key, cls, groups := BitVec.ofNat 16 (fieldAt r 12 2), window, passouts,
           verify := (byteAt r 19).testBit 0, state, lastUse }
  else none

/-! ## Requests -/

/-- The pieces of `size` bytes that a payload holds after its count byte. -/
def pieces (size : Nat) : (count : Nat) → List Byte → List (List Byte)
  | 0, _ => []
  | n + 1, bytes => bytes.take size :: pieces size n (bytes.drop size)

/-- R11, R14: the pieces of a payload that begins with a count, `none` where the count is out of range or the
length does not fit it. -/
def countedPieces (payload : List Byte) (maxCount size : Nat) : Option (List (List Byte)) :=
  match payload with
  | [] => none
  | c :: rest =>
    if 1 ≤ c.toNat ∧ c.toNat ≤ maxCount ∧ rest.length = c.toNat * size then some (pieces size c.toNat rest)
    else none

/-- R191: the ten settings of a GATE CONFIGURE payload of 12 bytes, `none` where any is out of range. -/
def settingsOf (p : List Byte) : Option Settings := do
  let policy ← policyOf (byteAt p 11)
  let c : Settings :=
    { admitWindow := byteAt p 0, refusalDisplay := byteAt p 1, passageLimit := byteAt p 2,
      repeatWindow := byteAt p 3, ageLimit := byteAt p 4, verifyDeadline := fieldAt p 5 2,
      silenceTimeout := byteAt p 7, passoutWindow := byteAt p 8, sweepPeriod := fieldAt p 9 2,
      offlinePolicy := policy }
  if inRange 2 30 c.admitWindow && inRange 5 50 c.refusalDisplay && inRange 5 60 c.passageLimit
      && inRange 5 100 c.repeatWindow && inRange 2 20 c.ageLimit && inRange 200 3000 c.verifyDeadline
      && inRange 1 60 c.silenceTimeout && inRange 5 240 c.passoutWindow && inRange 4 256 c.sweepPeriod
  then some c else none

/-- R52: the lane and the five settings of a LANE CONFIGURE payload of 6 bytes, `none` where any is out of
its list or free exit is yes on an ENTRY lane. -/
def laneConfigOf (p : List Byte) : Option (LaneNo × LaneConfig) := do
  let lane ← laneOf (byteAt p 0)
  let direction ← directionOf (byteAt p 1)
  let group ← nibbleOf (byteAt p 2)
  let cardSource ← cardSourceOf (byteAt p 3)
  let barcodeOn ← boolOf (byteAt p 4)
  let freeExit ← boolOf (byteAt p 5)
  if freeExit && decide (direction = .entry) then none
  else some (lane, { direction, group, cardSource, barcodeOn, freeExit })

/-- A test action of LANE TEST with its parameter (R77). -/
inductive TestAction where
  | release (milliseconds : Nat)
  | signal (s : Signal)
  | tone (t : Tone)
  | offset
  deriving DecidableEq, Repr

/-- R77, R194: the action and parameter of a LANE TEST payload, `none` where either is out of range. OFFSET
has the parameter 0 (log 15). -/
def testActionOf (action parameter : Nat) : Option TestAction :=
  match action with
  | 1 => if parameter ≤ 5000 then some (.release parameter) else none
  | 2 => (Signal.ofCode parameter).map .signal
  | 3 => (Tone.ofCode parameter).map .tone
  | 4 => if parameter = 0 then some .offset else none
  | _ => none

/-! ## Card reader bus (R111, R195) -/

/-- What a good answer carries (R111). -/
inductive BusContent where
  | idle
  | card (key : Key)
  | fault (code : Nat)
  deriving DecidableEq, Repr

/-- An answer frame as the bus receiver finds it: not complete, complete and bad whatever was asked, or
complete with its check correct. -/
inductive BusAnswer where
  | incomplete
  | bad
  | frame (address : Nat) (content : BusContent)
  deriving DecidableEq, Repr

/-- R111: the content of an answer by kind, length and data, `none` where they do not agree. -/
def busContentOf (kind : Nat) (data : List Byte) : Option BusContent :=
  match kind with
  | 0 => if data.length = 0 then some .idle else none
  | 1 => (cardKindOf data.length).map fun k => .card (cardKey k data)
  | 2 => if data.length = 1 then some (.fault (beNat data)) else none
  | _ => none

/-- The answer frame in the bytes after its start byte. -/
def busFrameOf (bytes : List Byte) : BusAnswer :=
  match bytes with
  | address :: kind :: length :: rest =>
    if 10 < length.toNat then .bad
    else if rest.length < length.toNat + 1 then .incomplete
    else
      let data := rest.take length.toNat
      if (rest.drop length.toNat).take 1 = [busCheck (address :: kind :: length :: data)] then
        match busContentOf kind.toNat data with
        | some c => .frame address.toNat c
        | none => .bad
      else .bad
  | _ => .incomplete

/-- R195: bytes before the start byte are discarded. -/
def busAnswerOf : List Byte → BusAnswer
  | [] => .incomplete
  | b :: rest => if b = 0xC3#8 then busFrameOf rest else busAnswerOf rest

end Sys2Proof.Machine
end

