-- ==== Sys2Proof/Machine/PowerOn.lean ====
section
/-! DEFINITION. The power-on values of every block (R177 and the rules it names). -/

namespace Sys2Proof.Machine

/-- R191: the power-on value of each gate setting. -/
def Settings.powerOn : Settings :=
  { admitWindow := 8, refusalDisplay := 15, passageLimit := 20, repeatWindow := 20, ageLimit := 6,
    verifyDeadline := 800, silenceTimeout := 5, passoutWindow := 45, sweepPeriod := 32,
    offlinePolicy := .admitLocal }

/-- R1, R3, R6: the empty bucket, with the check code of no entries and no mark. -/
def Bucket.empty : Bucket := { entries := [], code := 0xFFFF#16, suspect := false }

/-- R30: the credential table after power-on, every bucket empty and none SUSPECT. -/
def Table.empty : Table := { buckets := [], entryCount := 0, suspectTotal := 0 }

/-- R52, R80: the power-on configuration of a lane. -/
def LaneConfig.powerOn : LaneConfig :=
  { direction := .entry, group := 0, cardSource := .none, barcodeOn := true, freeExit := false }

/-- R80: the six counters at 0. -/
def Counters.zero : Counters :=
  { admitted := 0, passouts := 0, refused := 0, freeExits := 0, unpaid := 0, emergency := 0 }

/-- R119: a barcode port at power-on and after RESTART (R120). -/
def Port.fresh : Port := { buffer := [], counted := 0, lineBad := false, badCount := 0, fault := false }

/-- R119: a card reader at power-on, after RESTART (R120) and when put on the bus (R117). -/
def Reader.fresh : Reader := { online := true, misses := 0, repoll := .stopped }

/-- R100: a decoder at power-on, its line pair taken from the lines. -/
def Rotor.fresh (a b : Bool) : Rotor :=
  { lineA := a, lineB := b, offset := 0, peak := 0, faults := 0, forced := false }

/-- R166: a signal unit at power-on. -/
def SignalUnit.fresh : SignalUnit := { shown := .stop, flash := none, commanded := .stop, tone := none }

/-- R80, R100, R119, R135, R166: a lane at power-on, with its rotor lines as they stand. -/
def Lane.powerOn (a b : Bool) : Lane :=
  { config := .powerOn, state := .closed .restart, closePending := none, hold := none, verified := false,
    offlineAdmit := false, current := none, next := none, repeatMemory := none, counters := .zero,
    testRelease := none, lockOn := false, rotor := .fresh a b, port := .fresh, reader := .fresh,
    slot := none, queryCounter := 0, signals := .fresh }

/-- R178: the START report. -/
def Report.start (time : Option Nat) (reason count next : Nat) : Report :=
  { kind := .start, lane := none, time := time, reason := reason, count := count, key := .sequence next }

/-- The ten lanes at power-on; bit l of each word is the line of lane l. -/
def lanesAtPowerOn (lineA lineB : BitVec 10) : Vector Lane 10 :=
  let at_ (l : Nat) : Lane := .powerOn (lineA.getLsbD l) (lineB.getLsbD l)
  #v[at_ 0, at_ 1, at_ 2, at_ 3, at_ 4, at_ 5, at_ 6, at_ 7, at_ 8, at_ 9]

/-- R177: every block at its power-on values, with the START report of reason POWER in the report queue
(R192). An open emergency contact starts the debounce timer at once (R167). `sending`, `secondTimer` and
`restartReleased` have no value in the spec (DESIGN CHOICE, unsafe, log 18). -/
def Wb610.powerOn (lineA lineB : BitVec 10) (contactOpen : Bool) : Wb610 :=
  { settings := .powerOn
    table := .empty
    lanes := lanesAtPowerOn lineA lineB
    pollPointer := 9
    poll := none
    verifyQueue := []
    sweepPointer := 0
    visitTimer := some Settings.powerOn.visitTime
    fastPass := false
    fastStart := 0
    fastCount := 0
    journal := []
    nextSequence := 1
    rawEmergency := contactOpen
    emergency := false
    debounce := if contactOpen then some debounceTime else none
    supply := .unknown
    lastSample := 0
    sampleTimer := sampleTime
    tally := 0
    clock := none
    secondTimer := none
    receiver := .hunting
    rxBuffer := []
    handler := .awaitingStart
    request := none
    responses := []
    reports := [.start none 1 0 1]
    dropCount := 0
    sending := none
    online := false
    silence := some Settings.powerOn.silenceTime
    restartReleased := 0 }

end Sys2Proof.Machine
end

