-- ==== Sys2Proof/Machine/State.lean ====
section
/-! DEFINITION. The machine's state: the queue of waiting commands and the part itself, with the state right after
reset, and the reasons a step can stop. -/

namespace Sys2Proof.Machine

/-- The queue of commands that wait, first in first out, and the WB-610 as Machine/Types.lean holds it: the
gate-wide state in `Wb610`, everything of one lane in `Lane`. Plain data. -/
structure State where
  pending : List Instr
  part : Wb610
  deriving DecidableEq, Repr

/-- Reasons to stop with a fault. There is none: no rule of the spec stops the part. Errors are result
codes, reports and lane states. -/
inductive Fault where
  deriving DecidableEq, Repr

/-- Reasons to refuse a command. -/
inductive Refusal where
  /-- Raised by `exec` for a command that has no meaning in the model. Safe: the model stops where the
  hardware goes on. No arm raises it. -/
  | notModelled (mnemonic : String)
  deriving DecidableEq, Repr

/-- The machine right after power-on (R177): the power-on values of every block and no command waiting. The
rotor lines stand at 0 and the emergency contact is closed, which the spec leaves to the environment
(DESIGN CHOICE, unsafe, log 5; the command POWER_ON gives every other case). -/
def State.reset : State := { pending := [], part := .powerOn 0 0 false }

end Sys2Proof.Machine
end

