-- ==== Sys2Proof/Machine/Ops.lean ====
section
/-! DEFINITION. The shared operations: the credential table's buckets and entries (Chapter 1), one lane's record, the
report queue (R187), tones (R162), and taking and answering a request (R183, R184). -/

namespace Sys2Proof.Machine

/-! ## Buckets: one canonical list -/

/-- Whether a bucket is the empty bucket, which is not listed. -/
def Bucket.isEmpty (v : Bucket) : Bool := v.entries.isEmpty && decide (v.code = 0xFFFF#16) && !v.suspect

/-- The bucket of a number; one not listed is empty (R30). -/
def bucketAt : List (Nat × Bucket) → Nat → Bucket
  | [], _ => .empty
  | (k, v) :: rest, b => if k = b then v else bucketAt rest b

/-- The list with a bucket replaced: numbers stay rising and no empty bucket is listed. -/
def putBucket : List (Nat × Bucket) → Nat → Bucket → List (Nat × Bucket)
  | [], b, v => if v.isEmpty then [] else [(b, v)]
  | (k, w) :: rest, b, v =>
    if b < k then (if v.isEmpty then (k, w) :: rest else (b, v) :: (k, w) :: rest)
    else if b = k then (if v.isEmpty then rest else (b, v) :: rest)
    else (k, w) :: putBucket rest b v

/-- The canonical form: bucket numbers below 4,096 and strictly rising, no empty bucket listed. -/
def bucketsWf : List (Nat × Bucket) → Bool
  | [] => true
  | (k, v) :: rest =>
    decide (k < Config.bucketCount) && !v.isEmpty && rest.all (fun r => decide (k < r.1)) && bucketsWf rest

/-- The bucket of a number in the table. -/
def Table.bucket (t : Table) (b : Nat) : Bucket := bucketAt t.buckets b

/-- A bucket replaced, the entry count (R9) and the SUSPECT total (R136) following it. -/
def Table.setBucket (t : Table) (b : Nat) (v : Bucket) : Table :=
  let old := t.bucket b
  { buckets := putBucket t.buckets b v
    entryCount := t.entryCount + v.entries.length - old.entries.length
    suspectTotal := t.suspectTotal + v.suspect.toNat - old.suspect.toNat }

/-- R4: the contents of a bucket written and its check code recomputed over them. The mark stays. -/
def Table.writeEntries (t : Table) (b : Nat) (entries : List Entry) : Table :=
  t.setBucket b { entries := entries, code := checkCode entries, suspect := (t.bucket b).suspect }

/-- R2: the entry of a key, searched for in its bucket alone. -/
def Table.find (t : Table) (k : Key) : Option Entry :=
  (t.bucket (bucketOf k)).entries.find? fun e => decide (e.key = k)

/-- The entry of a key changed where it stands. The check code is recomputed when the contents change, and
only then (R4; log 22); an absent key changes nothing. -/
def Table.modify (t : Table) (k : Key) (f : Entry → Entry) : Table :=
  let es := (t.bucket (bucketOf k)).entries
  let changed := es.map fun e => if e.key = k then f e else e
  if changed = es then t else t.writeEntries (bucketOf k) changed

/-- R13, case 3: the entry of a key replaced in its place, the check code recomputed. -/
def Table.replace (t : Table) (new : Entry) : Table :=
  t.writeEntries (bucketOf new.key)
    ((t.bucket (bucketOf new.key)).entries.map fun e => if e.key = new.key then new else e)

/-- R1: an entry joins the end of its bucket's list. -/
def Table.append (t : Table) (e : Entry) : Table :=
  t.writeEntries (bucketOf e.key) ((t.bucket (bucketOf e.key)).entries ++ [e])

/-- R14: the entry of a key leaves its bucket's list, and those after it move up. -/
def Table.remove (t : Table) (k : Key) : Table :=
  t.writeEntries (bucketOf k) ((t.bucket (bucketOf k)).entries.filter fun e => !decide (e.key = k))

/-! ## Holds (section 1.8) -/

/-- The state a prior state stands for, with its prior expiry (R26). -/
def Prior.state : Prior → EntryState
  | .outside => .outside
  | .inside => .inside
  | .outOnPassout x => .outOnPassout x

/-- The prior state a hold taken from a state keeps; a hold is taken from these three alone (R23). -/
def EntryState.prior : EntryState → Option Prior
  | .outside => some .outside
  | .inside => some .inside
  | .outOnPassout x => some (.outOnPassout x)
  | .spent => none
  | .void => none
  | .held _ => none

/-- R23: an entry taken into a hold. -/
def Entry.takeHold (lane : LaneNo) (purpose : Purpose) (e : Entry) : Entry :=
  match e.state.prior with
  | some prior =>
    { e with state := .held { lane, purpose, prior, revokePending := false, enteredElsewhere := false } }
  | none => e

/-- R26: an entry settled by a release at a clock second: VOID when revoke-pending is set, else INSIDE with
last use at another entrance when entered-elsewhere is set, else its prior state. -/
def Entry.release (now : Nat) (e : Entry) : Entry :=
  match e.state with
  | .held h =>
    if h.revokePending then { e with state := .void }
    else if h.enteredElsewhere then { e with state := .inside, lastUse := some { lane := .elsewhere, time := now } }
    else { e with state := h.prior.state }
  | .outside => e | .inside => e | .outOnPassout _ => e | .spent => e | .void => e

/-- One less, and 0 stays 0. -/
def lessOne (n : Fin 16) : Fin 16 := ⟨n.val - 1, by omega⟩

/-- R24, R25: an entry committed at a clock second. -/
def Entry.commit (now passoutSeconds : Nat) (e : Entry) : Entry :=
  match e.state with
  | .held h =>
    match h.purpose with
    | .entry =>
      { e with
        state := if h.revokePending then .void else .inside
        lastUse := some { lane := .lane h.lane, time := now } }
    | .passout =>
      { e with
        passouts := lessOne e.passouts
        state := if h.revokePending then .void else .outOnPassout (now + passoutSeconds)
        lastUse := some { lane := .lane h.lane, time := now } }
  | .outside => e | .inside => e | .outOnPassout _ => e | .spent => e | .void => e

/-- R29: whether an entry's passout has run out at the clock value; never while the clock is unset. -/
def Entry.expired (clock : Option Nat) (e : Entry) : Bool :=
  match e.state, clock with
  | .outOnPassout x, some c => decide (x ≤ c)
  | _, _ => false

/-- R29: the conversion of a run-out passout. -/
def Entry.spend (e : Entry) : Entry := { e with state := .spent }

/-! ## One lane -/

/-- The ten lanes in order. -/
def laneNos : List LaneNo := [0, 1, 2, 3, 4, 5, 6, 7, 8, 9]

/-- What the part keeps for a lane. -/
def Wb610.lane (p : Wb610) (l : LaneNo) : Lane := p.lanes.get l

/-- A lane's record replaced, its outputs following in the same event (R98, R159). -/
def Wb610.setLane (p : Wb610) (l : LaneNo) (x : Lane) : Wb610 :=
  { p with lanes := p.lanes.set l.val x.sync l.isLt }

/-- A lane's record changed. -/
def Wb610.modLane (p : Wb610) (l : LaneNo) (f : Lane → Lane) : Wb610 := p.setLane l (f (p.lane l))

/-- An act on every lane, from lane 0 to lane 9. -/
def Wb610.eachLane (p : Wb610) (act : Wb610 → LaneNo → Wb610) : Wb610 := laneNos.foldl act p

/-- The clock second that a commit or release writes. An open lane has the clock set (R73, R174); for a state
that no run reaches the value is 0 (log 8). -/
def Wb610.now (p : Wb610) : Nat := p.clock.getD 0

/-- R79: a counter that reaches 4,294,967,295 stays there. -/
def addOne32 (n : Nat) : Nat := if n < Config.count32Max then n + 1 else n

/-- R82, R102, R169, R187: a count that reaches 65,535 stays there. -/
def addOne16 (n : Nat) : Nat := if n < Config.count16Max then n + 1 else n

/-- R162: a request for a pattern starts it, replaces a short one, or is dropped while ATTENTION is being
played; in FREE it is dropped (R164). -/
def Lane.requestTone (t : Tone) (x : Lane) : Lane :=
  if x.state.isFree then x
  else if x.signals.tone.any (fun p => decide (p.pattern = .attention)) then x
  else { x with signals := { x.signals with tone := some { pattern := t, left := t.length } } }

/-- R64: a decided key goes into the repeat memory and the repeat timer starts afresh. -/
def Lane.remember (c : Settings) (k : Key) (x : Lane) : Lane :=
  { x with repeatMemory := some { key := k, timer := some c.repeatTime } }

/-- A lane's hold ended, the admission flags with it. -/
def Lane.dropHold (x : Lane) : Lane := { x with hold := none, verified := false, offlineAdmit := false }

/-! ## Reports -/

/-- R187: a report joins the queue, or is discarded and counted when the queue is full. -/
def Wb610.placeReport (p : Wb610) (r : Report) : Wb610 :=
  if p.reports.length < Config.reportCapacity then { p with reports := p.reports ++ [r] }
  else { p with dropCount := addOne16 p.dropCount }

/-- A report made now (R187: the clock value as it stands when it is placed). -/
def Wb610.report (p : Wb610) (kind : ReportKind) (lane : Option LaneNo) (reason count : Nat) (key : ReportKey) :
    Wb610 :=
  p.placeReport { kind := kind, lane := lane, time := p.clock, reason := reason, count := count, key := key }

/-- The key of the presentation in CURRENT, as a report carries it. -/
def Lane.currentKey (x : Lane) : ReportKey := x.current.elim .none fun q => .credential q.key

/-! ## The lane's hold at the table -/

/-- R22, R23: a hold taken on an entry, the entry's hold record and the lane's hold reference set together. -/
def Wb610.takeHold (p : Wb610) (l : LaneNo) (k : Key) (purpose : Purpose) : Wb610 :=
  { p with table := p.table.modify k (Entry.takeHold l purpose) }.modLane l
    fun x => { x with hold := some k }

/-- R26: the lane's hold, if it has one, released: the entry settled, the hold reference cleared in the same
operation, the admission flags dropped. -/
def Wb610.releaseHold (p : Wb610) (l : LaneNo) : Wb610 :=
  match (p.lane l).hold with
  | none => p
  | some k => { p with table := p.table.modify k (Entry.release p.now) }.modLane l Lane.dropHold

/-! ## Requests and responses -/

/-- R183: the handler may take a frame. -/
def Wb610.handlerReady (p : Wb610) : Bool :=
  p.request.isNone && decide (p.responses.length < Config.responseCapacity) && decide (p.handler = .ready)

/-- R183: the oldest frame of the receive buffer, where the handler may take it and it is one this step
serves, with the part after it has left the buffer. -/
def Wb610.takeFrame (p : Wb610) (serves : Frame → Bool) : Option (Frame × Wb610) :=
  match p.rxBuffer with
  | [] => none
  | f :: rest => if p.handlerReady && serves f then some (f, { p with rxBuffer := rest }) else none

/-- A response joins the end of the response queue (R183): TYPE plus 0x80 and the request's TAG (R184). -/
def Wb610.answer (p : Wb610) (type tag : Byte) (code : ResultCode) (fields : List Byte) : Wb610 :=
  { p with responses := p.responses ++ [{ type := type + 0x80#8, tag := tag, payload := code.code :: fields }] }

/-- The response to a frame. -/
def Wb610.respond (p : Wb610) (f : Frame) (code : ResultCode) (fields : List Byte) : Wb610 :=
  p.answer f.type f.tag code fields

/-- A request step: it serves the oldest frame when that frame is its own and the handler may take it, and
otherwise the event does not occur and nothing changes (log 2). -/
def Wb610.serve (p : Wb610) (serves : Frame → Bool) (body : Wb610 → Frame → Wb610) : Wb610 :=
  match p.takeFrame serves with
  | none => p
  | some (f, q) => body q f

/-- A request step of one TYPE whose payload has a fixed length (R184: any other length is BAD_REQUEST). -/
def Wb610.serveFixed (p : Wb610) (type : Byte) (length : Nat) (body : Wb610 → Frame → Wb610) : Wb610 :=
  p.serve (fun f => decide (f.type = type)) fun q f =>
    if f.payload.length = length then body q f else q.respond f .badRequest []

/-- R53, R54, R74: whether all ten lanes are CLOSED. -/
def Wb610.allClosed (p : Wb610) : Bool := laneNos.all fun l => (p.lane l).state.isClosed

/-- A step on the part, with the queue as it stands: every command of the block answers a next state. -/
def State.act (s : State) (f : Wb610 → Wb610) : Host.Outcome State Fault Refusal :=
  .next { s with part := f s.part }

end Sys2Proof.Machine
end

