-- ==== Sys2Proof/Machine/Judging.lean ====
section
/-! DEFINITION. The judgement of a presentation (Chapter 2): the ordered checks of R33 and what they decide. -/

namespace Sys2Proof.Machine

/-- What the judgement reads besides the entry (R32), as it stands when the claim is taken. -/
structure GateView where
  supply : SupplyState
  online : Bool
  clock : Option Nat
  policy : OfflinePolicy
  deriving DecidableEq, Repr

/-- What a judgement decides (R22, R33). -/
inductive Judgement where
  /-- REFUSE with a reason, the entry unchanged. -/
  | refuse (r : Reason)
  /-- R43: the passout ran out: the entry becomes SPENT and the lane refuses PASSOUT_EXPIRED. -/
  | spendAndRefuse
  /-- R38: VERIFY for an unknown or suspect key, with no hold. -/
  | verifyUnheld (cause : QueryCause) (purpose : Purpose)
  /-- R45: VERIFY with cause FLAGGED, with a hold for ENTRY. -/
  | verifyFlagged
  /-- R45, R46: ADMIT with a hold, and whether it carries OFFLINE_ADMIT. -/
  | admitHolder (purpose : Purpose) (offlineAdmit : Bool)
  deriving DecidableEq, Repr

/-- The purpose that follows from a lane's direction (R38). -/
def Direction.purpose : Direction → Purpose
  | .entry => .entry
  | .exit => .passout

/-- Step 2 (R35): whether a presentation carries a wrong check digit. -/
def Presentation.badCheckDigit (q : Presentation) : Bool :=
  match q.source with
  | .barcode d => !decide (d = checkDigitOf q.key.bytes.toNat)
  | .bus => false
  | .remote => false

/-- Step 5 (R38): an unknown or suspect key goes to the host, or is refused while the link is OFFLINE. -/
def judgeUnheld (view : GateView) (d : Direction) (cause : QueryCause) : Judgement :=
  if view.online then .verifyUnheld cause d.purpose else .refuse .unknownOffline

/-- Step 9 (R42): the refusal of an entry's window at a clock value, if any. While the clock is unset there
is no clock minute to compare. -/
def windowRefusal (w : Option Window) (clock : Option Nat) : Option Reason :=
  match w, clock with
  | some w, some c =>
    if c / 60 < w.fromMinute then some .tooEarly
    else if w.untilMinute < c / 60 then some .tooLate
    else none
  | _, _ => none

/-- Step 12 for ENTRY (R45, R46): the verify flag, the link and the offline policy. -/
def judgeCandidate (view : GateView) (verify : Bool) : Judgement :=
  if !verify then .admitHolder .entry false
  else if view.online then .verifyFlagged
  else match view.policy with
    | .admitLocal => .admitHolder .entry true
    | .refuse => .refuse .offline

/-- Steps 10 and 12 (R43): the state of an entry at an ENTRY lane. -/
def judgeEntryState (view : GateView) (e : Entry) : Judgement :=
  match e.state with
  | .held _ => .refuse .inUse
  | .void => .refuse .void
  | .spent => .refuse .spent
  | .inside => .refuse .alreadyInside
  | .outside => judgeCandidate view e.verify
  | .outOnPassout _ => if e.expired view.clock then .spendAndRefuse else judgeCandidate view e.verify

/-- Steps 11 and 12 (R44): the state of an entry at an EXIT lane. -/
def judgeExitState (e : Entry) : Judgement :=
  match e.state with
  | .held _ => .refuse .inUse
  | .void => .refuse .void
  | .spent => .refuse .spent
  | .inside => if e.passouts.val = 0 then .refuse .noPassoutLeft else .admitHolder .passout false
  | .outside => .refuse .notInside
  | .outOnPassout _ => .refuse .notInside

/-- Steps 6 to 12 (R39-R46): an entry that is present, in a bucket that is not SUSPECT. -/
def judgeEntry (view : GateView) (c : LaneConfig) (e : Entry) : Judgement :=
  match e.state with
  | .held _ => .refuse .inUse
  | .void => .refuse .void
  | .spent => .refuse .spent
  | .outside | .inside | .outOnPassout _ =>
    if !e.groups.getLsbD c.group.val then .refuse .wrongEntrance
    else match c.direction with
      | .entry =>
        match windowRefusal e.window view.clock with
        | some r => .refuse r
        | none => judgeEntryState view e
      | .exit => judgeExitState e

/-- Steps 3 to 12: the bucket, the key, the entry (R36, R37). -/
def judgeKey (view : GateView) (c : LaneConfig) (t : Table) (k : Key) : Judgement :=
  if (t.bucket (bucketOf k)).suspect then judgeUnheld view c.direction .suspect
  else match t.find k with
    | none => judgeUnheld view c.direction .unknown
    | some e => judgeEntry view c e

/-- R33: the judgement, its checks in order. -/
def judge (view : GateView) (c : LaneConfig) (t : Table) (q : Presentation) : Judgement :=
  if view.supply ≠ .good then .refuse .lowSupply
  else if q.badCheckDigit then .refuse .badCode
  else judgeKey view c t q.key

/-- What the judgement reads, as it stands (R32). -/
def Wb610.view (p : Wb610) : GateView :=
  { supply := p.supply, online := p.online, clock := p.clock, policy := p.settings.offlinePolicy }

end Sys2Proof.Machine
end

