-- ==== Sys2Proof/Machine/Verify.lean ====
section
/-! DEFINITION. The lane's decisions and the verify unit: entering RELEASED and REFUSING (R56-R58), opening, settling
and cancelling a query (Chapter 6), closing a lane, arrivals and the return to IDLE (Chapter 3). -/

namespace Sys2Proof.Machine

/-! ## Entering the states of the admission cycle -/

/-- R58: RELEASED, with the admit window of this moment; a forced episode ends (R92). -/
def Lane.enterReleased (c : Settings) (x : Lane) : Lane :=
  { x with state := .released c.admitTime, rotor := { x.rotor with forced := false } }

/-- R59: PASSING, with the passage limit of this moment. -/
def Lane.enterPassing (c : Settings) (x : Lane) : Lane :=
  { x with state := .passing c.passageTime, rotor := { x.rotor with forced := false } }

/-- R72: REFUSING, with the refusal display of this moment. -/
def Lane.enterRefusing (c : Settings) (x : Lane) : Lane := { x with state := .refusing c.refusalTime }

/-- R49: each refusal adds one to the refused counter. -/
def Lane.countRefusal (x : Lane) : Lane :=
  { x with counters := { x.counters with refused := addOne32 x.counters.refused } }

/-- R56, R57, R64: the key of CURRENT goes into the repeat memory when it has been decided. -/
def Lane.rememberCurrent (c : Settings) (x : Lane) : Lane :=
  match x.current with
  | some q => x.remember c q.key
  | none => x

/-- R56, R57: an admission: the admission flags kept, RELEASED entered, the key remembered, ACCEPT asked. -/
def Lane.admitHolder (c : Settings) (verified offlineAdmit : Bool) (x : Lane) : Lane :=
  Lane.requestTone .accept
    (Lane.rememberCurrent c (Lane.enterReleased c { x with verified := verified, offlineAdmit := offlineAdmit }))

/-- R56, R57: a refusal as the lane sees it: REFUSING entered, counted, the key remembered, REFUSE asked. -/
def Lane.refuse (c : Settings) (x : Lane) : Lane :=
  Lane.requestTone .refuse (Lane.rememberCurrent c (Lane.countRefusal (Lane.enterRefusing c x)))

/-- R47, R57: the lane admits the holder of CURRENT. -/
def Wb610.admitHolder (p : Wb610) (l : LaneNo) (verified offlineAdmit : Bool) : Wb610 :=
  p.modLane l (Lane.admitHolder p.settings verified offlineAdmit)

/-- R49: the lane refuses CURRENT with a reason, with its REFUSED report. -/
def Wb610.refuse (p : Wb610) (l : LaneNo) (r : Reason) : Wb610 :=
  (p.modLane l (Lane.refuse p.settings)).report .refused (some l) r.code 0 (p.lane l).currentKey

/-! ## Queries (Chapter 6) -/

/-- A lane's slot emptied and its waiting VERIFY message removed (R124). -/
def Wb610.dropQuery (p : Wb610) (l : LaneNo) : Wb610 :=
  match (p.lane l).slot with
  | none => p
  | some q =>
    { p with verifyQueue := p.verifyQueue.filter fun m => !decide (m.tag = q.tag) }.modLane l
      fun x => { x with slot := none }

/-- R132: a query settled without the host, by its cause and the offline policy as it stands. -/
def Wb610.settleWithoutHost (p : Wb610) (l : LaneNo) : Wb610 :=
  match (p.lane l).slot with
  | none => p
  | some q =>
    let p1 := p.dropQuery l
    match q.cause with
    | .unknown => p1.refuse l .noVerdict
    | .suspect => p1.refuse l .noVerdict
    | .flagged =>
      match p.settings.offlinePolicy with
      | .admitLocal => p1.admitHolder l false true
      | .refuse => (p1.releaseHold l).refuse l .noVerdict

/-- R122: the tag of a lane's query. -/
def queryTag (l : LaneNo) (counter : Fin 16) : Nat := 16 * l.val + counter.val

/-- R121: the counter runs from 0 to 15, 15 being followed by 0. -/
def nextCounter (c : Fin 16) : Fin 16 := if c.val = 15 then 0 else ⟨(c.val + 1) % 16, by omega⟩

/-- R123: a query opened: the counter advanced, the slot filled, the deadline started, VERIFYING entered, and
the VERIFY message queued; with the link OFFLINE no message is placed and the query is settled at once. -/
def Wb610.openQuery (p : Wb610) (l : LaneNo) (k : Key) (purpose : Purpose) (cause : QueryCause) : Wb610 :=
  let counter := nextCounter (p.lane l).queryCounter
  let tag := queryTag l counter
  let p1 := p.modLane l fun x =>
    { x with
      state := .verifying
      queryCounter := counter
      slot := some { tag, key := k, purpose, cause, deadline := p.settings.deadlineTime } }
  if p.online then { p1 with verifyQueue := p1.verifyQueue ++ [{ tag, lane := l, purpose, key := k, cause }] }
  else p1.settleWithoutHost l

/-- R133: link loss settles every occupied slot, from lane 0 upward, and removes every waiting message. -/
def Wb610.settleAllWithoutHost (p : Wb610) : Wb610 :=
  { p.eachLane Wb610.settleWithoutHost with verifyQueue := [] }

/-! ## Link loss -/

/-- R185: the silence timer runs out: an ONLINE link goes OFFLINE with its report, and every pending query is
settled (R133). -/
def Wb610.silenceTimeout (p : Wb610) : Wb610 :=
  match p.silence with
  | none => p
  | some _ =>
    let q := { p with silence := none }
    if p.online then ({ q with online := false }.report .link none 2 0 .none).settleAllWithoutHost else q

/-- R123: the part as the opening of a query finds it: the silence timer may have run out since the claim (log 7). -/
def Wb610.atOpening (p : Wb610) (linkLost : Bool) : Wb610 := if linkLost then p.silenceTimeout else p

/-! ## Claims (R22, R56) -/

/-- R22, R56: a judged claim on the presentation in CURRENT, and what the lane does with its outcome. The link may
go OFFLINE between the claim and the opening of its query (R123; log 7). -/
def Wb610.claim (p : Wb610) (l : LaneNo) (q : Presentation) (linkLost : Bool) : Wb610 :=
  match judge p.view (p.lane l).config p.table q with
  | .refuse r => p.refuse l r
  | .spendAndRefuse => { p with table := p.table.modify q.key Entry.spend }.refuse l .passoutExpired
  | .verifyUnheld cause purpose => (p.atOpening linkLost).openQuery l q.key purpose cause
  | .verifyFlagged => ((p.takeHold l q.key .entry).atOpening linkLost).openQuery l q.key .entry .flagged
  | .admitHolder purpose offlineAdmit => (p.takeHold l q.key purpose).admitHolder l false offlineAdmit

/-! ## Leaving a state -/

/-- R69: IDLE with both slots empty. -/
def Lane.enterIdle (x : Lane) : Lane := { x with state := .idle, current := none, next := none }

/-- R55, R74: CLOSED with a cause: both slots and the repeat memory emptied, the admission flags dropped, the
close-pending mark cleared, any test release and commanded signal ended (R76; log 14). -/
def Lane.close (cause : ClosedCause) (x : Lane) : Lane :=
  { x with
    state := .closed cause
    closePending := none
    verified := false
    offlineAdmit := false
    current := none
    next := none
    repeatMemory := none
    testRelease := none
    signals := { x.signals with commanded := .stop } }

/-- R69: the return to IDLE: CURRENT emptied, and NEXT promoted and judged at once while its age timer runs,
or discarded once it has run out. -/
def Wb610.returnToIdle (p : Wb610) (l : LaneNo) (linkLost : Bool) : Wb610 :=
  match (p.lane l).next with
  | some { presentation := q, age := some _ } =>
    (p.modLane l fun x => { x.enterIdle with current := some q }).claim l q linkLost
  | some { presentation := _, age := none } => p.modLane l Lane.enterIdle
  | none => p.modLane l Lane.enterIdle

/-- R60, R61, R71: the end of PASSING: CLOSED with the close-pending cause when the mark is set, IDLE else. -/
def Wb610.leavePassing (p : Wb610) (l : LaneNo) (linkLost : Bool) : Wb610 :=
  match (p.lane l).closePending with
  | some cause => p.modLane l (Lane.close cause)
  | none => p.returnToIdle l linkLost

/-- R74, R78: a lane closed at once: a query cancelled (R134), a hold released, CLOSED with the cause. -/
def Wb610.closeLane (p : Wb610) (l : LaneNo) (cause : ClosedCause) : Wb610 :=
  ((p.dropQuery l).releaseHold l).modLane l (Lane.close cause)

/-! ## Arrivals (section 3.3) -/

/-- The outcome a lane hands back to the source of a presentation (R63). -/
inductive Arrival where
  | taken | repeated | notOpen
  deriving DecidableEq, Repr

/-- R64: whether a key is a repeat at a lane: the key of CURRENT or of NEXT, or the key in the repeat memory
while the repeat timer runs. -/
def Lane.isRepeat (x : Lane) (k : Key) : Bool :=
  x.current.any (fun q => decide (q.key = k))
    || x.next.any (fun w => decide (w.presentation.key = k))
    || x.repeatMemory.any fun m => decide (m.key = k) && m.timer.isSome

/-- R66: a presentation goes into NEXT, replacing the one there, and its age timer starts. -/
def Lane.putNext (c : Settings) (q : Presentation) (x : Lane) : Lane :=
  { x with next := some { presentation := q, age := some c.ageTime } }

/-- R67: a presentation refused NOT_READY in PASSING with close-pending set. -/
def Wb610.refuseNotReady (p : Wb610) (l : LaneNo) (k : Key) : Wb610 :=
  (p.modLane l fun x => Lane.remember p.settings k x.countRefusal).report .refused (some l) Reason.notReady.code 0
    (.credential k)

/-- R63: a presentation arrives at a lane and is handled by the lane's state. -/
def Wb610.arrive (p : Wb610) (l : LaneNo) (q : Presentation) (linkLost : Bool) : Wb610 × Arrival :=
  let x := p.lane l
  let waits : Wb610 × Arrival :=
    if x.isRepeat q.key then (p, .repeated) else (p.modLane l (Lane.putNext p.settings q), .taken)
  match x.state with
  | .closed _ => (p.modLane l (Lane.requestTone .error), .notOpen)
  | .test _ => (p.modLane l (Lane.requestTone .error), .notOpen)
  | .free _ => (p, .notOpen)
  | .idle =>
    if x.isRepeat q.key then (p, .repeated)
    else ((p.modLane l fun x => { x with current := some q }).claim l q linkLost, .taken)
  | .passing _ =>
    if x.closePending.isSome then
      if x.isRepeat q.key then (p, .repeated) else (p.refuseNotReady l q.key, .taken)
    else waits
  | .verifying => waits
  | .released _ => waits
  | .refusing _ => waits

end Sys2Proof.Machine
end

