-- ==== Sys2Proof/Machine/CardBus.lean ====
section
/-! DEFINITION. The card reader bus (section 5.2): the arbiter's choice, the poll and its end. -/

namespace Sys2Proof.Machine

/-! ## The arbiter (R109) -/

/-- The lanes in order from the one after a lane, 9 being followed by 0. -/
def lanesAfter (l : LaneNo) : List LaneNo :=
  (laneNos.drop (l.val + 1)) ++ laneNos.take (l.val + 1)

/-- R109, step 1: a reader that is due: on the bus, OFFLINE, its re-poll timer run out. -/
def Lane.readerDue (x : Lane) : Bool :=
  decide (x.config.cardSource = .bus) && !x.reader.online && decide (x.reader.repoll = .runOut)

/-- R109, step 2: a reader that is on the bus and ONLINE. -/
def Lane.readerOnBus (x : Lane) : Bool := decide (x.config.cardSource = .bus) && x.reader.online

/-- R109: the reader to poll next: a due reader first, else an ONLINE one. -/
def Wb610.nextReader (p : Wb610) : Option LaneNo :=
  let order := lanesAfter p.pollPointer
  match order.find? fun l => (p.lane l).readerDue with
  | some l => some l
  | none => order.find? fun l => (p.lane l).readerOnBus

/-- R109: with no poll in flight the arbiter chooses, the pointer moves to the reader chosen and its poll
starts; with no reader eligible the bus stays idle. -/
def Wb610.chooseReader (p : Wb610) : Wb610 :=
  match p.poll with
  | some _ => p
  | none =>
    match p.nextReader with
    | none => p
    | some l => { p with pollPointer := l, poll := some { lane := l, window := none, leftBus := false } }

/-! ## The end of a poll -/

/-- The poll in flight is over, and the arbiter chooses again (R109). -/
def Wb610.endPoll (p : Wb610) : Wb610 := { p with poll := none }.chooseReader

/-- R115, R116: the re-poll timer of an OFFLINE reader started afresh; that of a reader off the bus does not
run (R117; log 12). -/
def Lane.startRepoll (x : Lane) : RepollTimer :=
  if x.config.cardSource = .bus then .running repollTime else .stopped

/-- R115, R116: a poll that ends as a miss. -/
def Wb610.miss (p : Wb610) (l : LaneNo) : Wb610 :=
  let r := (p.lane l).reader
  if r.online then
    if r.misses + 1 < 3 then p.modLane l fun x => { x with reader := { x.reader with misses := r.misses + 1 } }
    else
      (p.modLane l fun x => { x with reader := { online := false, misses := 3, repoll := x.startRepoll } }).report
        .readerOffline (some l) 0 3 .none
  else p.modLane l fun x => { x with reader := { x.reader with repoll := x.startRepoll } }

/-- R111, R116: a good answer sets the miss count to 0 and brings an OFFLINE reader back. -/
def Wb610.readerAnswers (p : Wb610) (l : LaneNo) : Wb610 :=
  let p1 := p.modLane l fun x => { x with reader := .fresh }
  if (p.lane l).reader.online then p1 else p1.report .readerOnline (some l) 0 0 .none

/-- R112, R113, R114: a good answer taken by its kind. A CARD is discarded when the lane's card source has been
changed away from BUS while the poll was in flight (R113, R117). -/
def Wb610.goodAnswer (p : Wb610) (l : LaneNo) (leftBus : Bool) (c : BusContent) (linkLost : Bool) : Wb610 :=
  let p1 := p.readerAnswers l
  match c with
  | .idle => p1
  | .card k =>
    if leftBus then p1 else (p1.arrive l { key := k, source := .bus } linkLost).1
  | .fault code => p1.report .readerFault (some l) code 0 .none

/-- R110, R111, R195: bytes on the bus. They belong to a poll only while its answer window is open; a complete
frame ends the poll, as an answer or as a miss. -/
def Wb610.busBytes (p : Wb610) (bytes : List Byte) (linkLost : Bool) : Wb610 :=
  match p.poll with
  | some { lane := l, window := some _, leftBus } =>
    match busAnswerOf bytes with
    | .incomplete => p
    | .bad => (p.miss l).endPoll
    | .frame address c => (if address = l.val then p.goodAnswer l leftBus c linkLost else p.miss l).endPoll
  | some { lane := _, window := none, leftBus := _ } => p
  | none => p

/-- R110: the last byte of POLL has been sent, and the answer window opens. -/
def Wb610.pollSent (p : Wb610) : Wb610 :=
  match p.poll with
  | some { lane := l, window := none, leftBus } =>
    { p with poll := some { lane := l, window := some answerWindowTime, leftBus } }
  | some { lane := _, window := some _, leftBus := _ } => p
  | none => p

/-- R110: the window runs out, and the poll is a miss. -/
def Wb610.pollWindowExpiry (p : Wb610) : Wb610 :=
  match p.poll with
  | some { lane := l, window := some _, leftBus := _ } => (p.miss l).endPoll
  | some { lane := _, window := none, leftBus := _ } => p
  | none => p

/-- R109, R116: an OFFLINE reader becomes due, and an idle bus polls it at once. -/
def Wb610.repollTimerExpiry (p : Wb610) (l : LaneNo) : Wb610 :=
  match (p.lane l).reader.repoll with
  | .running _ => (p.modLane l fun x => { x with reader := { x.reader with repoll := .runOut } }).chooseReader
  | .stopped => p
  | .runOut => p

/-- R117: what a change of card source does to the lane's reader. -/
def Lane.changeCardSource (old new : CardSource) (x : Lane) : Lane :=
  if old = new then x
  else if new = .bus then { x with reader := .fresh }
  else if old = .bus then { x with reader := { x.reader with repoll := .stopped } }
  else x

/-- R113, R117: a poll in flight to the reader of a lane whose card source is changed away from BUS. -/
def Poll.changeCardSource (l : LaneNo) (old new : CardSource) (m : Poll) : Poll :=
  if m.lane = l ∧ old = .bus ∧ new ≠ .bus then { m with leftBus := true } else m

/-- POLL_SENT (R110). -/
def execPollSent (s : State) : Host.Outcome State Fault Refusal := s.act Wb610.pollSent

/-- BUS_ANSWER (R111). -/
def execBusAnswer (bytes : List Byte) (s : State) (linkLost : Bool := false) : Host.Outcome State Fault Refusal :=
  s.act fun p => p.busBytes bytes linkLost

/-- POLL_WINDOW_EXPIRY (R110). -/
def execPollWindowExpiry (s : State) : Host.Outcome State Fault Refusal := s.act Wb610.pollWindowExpiry

/-- REPOLL_TIMER_EXPIRY (R116). -/
def execRepollTimerExpiry (l : LaneNo) (s : State) : Host.Outcome State Fault Refusal :=
  s.act fun p => p.repollTimerExpiry l

end Sys2Proof.Machine
end

