-- ==== Sys2Proof/Machine/Rotor.lean ====
section
/-! DEFINITION. The rotor decoder (Chapter 4): decoding the sensor lines, the thresholds, and what each lane state makes of
them; the commit of a completed passage with its journal record (R60, Chapter 8). -/

namespace Sys2Proof.Machine

/-! ## The passage journal (R147, R148, R150) -/

/-- R150: the number after a sequence number; 0 is never given. -/
def nextSequenceAfter (n : Nat) : Nat := if n = Config.count32Max then 1 else n + 1

/-- R147, R148: a record joins the newest end; a full journal first loses its oldest record. -/
def Wb610.appendJournal (p : Wb610) (r : JournalRecord) : Wb610 :=
  { p with
    journal := (if p.journal.length < Config.journalCapacity then p.journal else p.journal.drop 1) ++ [r]
    nextSequence := nextSequenceAfter p.nextSequence }

/-! ## Passage complete (R60) -/

/-- R79: the counter of a committed passage. -/
def Counters.countPassage (c : Counters) : Purpose → Counters
  | .entry => { c with admitted := addOne32 c.admitted }
  | .passout => { c with passouts := addOne32 c.passouts }

/-- R24, R25, R148: the journal record of a commit: what the commit hands the lane and the lane's flags. -/
def Wb610.commitRecord (p : Wb610) (l : LaneNo) (e : Entry) (h : HoldRecord) : JournalRecord :=
  { sequence := p.nextSequence, time := p.now, lane := l, purpose := h.purpose, key := e.key, cls := e.cls,
    revoked := h.revokePending, double := h.enteredElsewhere, verified := (p.lane l).verified,
    offlineAdmit := (p.lane l).offlineAdmit }

/-- R60, steps 2 to 4: the hold committed, the record appended, the passage counted. Nothing where the hold
reference names no HELD entry, which no run reaches (R10; log 9). -/
def Wb610.commitHold (p : Wb610) (l : LaneNo) : Wb610 :=
  match (p.lane l).hold with
  | none => p
  | some k =>
    match p.table.find k with
    | none => p
    | some e =>
      match e.state.hold with
      | none => p
      | some h =>
        ({ p with table := p.table.modify k (Entry.commit p.now p.settings.passoutSeconds) }.appendJournal
            (p.commitRecord l e h)).modLane l
          fun x => { x.dropHold with counters := x.counters.countPassage h.purpose }

/-- R88: a completion subtracts 36 from the offset and sets the peak to 0: a rest position. -/
def Rotor.complete (r : Rotor) : Rotor := { r with offset := r.offset - 36, peak := 0 }

/-- R60, R88: passage complete at a PASSING lane. -/
def Wb610.completePassage (p : Wb610) (l : LaneNo) (linkLost : Bool) : Wb610 :=
  ((p.modLane l fun x => { x with rotor := x.rotor.complete }).commitHold l).leavePassing l linkLost

/-! ## Movement nobody was admitted for (R90, R91, R93, R94) -/

/-- R90: a forced episode begins, with its FORCED report and the ATTENTION tone. -/
def Wb610.beginForced (p : Wb610) (l : LaneNo) : Wb610 :=
  (p.report .forced (some l) 0 0 .none).modLane l
    fun x => Lane.requestTone .attention { x with rotor := { x.rotor with forced := true } }

/-- R91: an unpaid passage at an ENTRY lane whose forced episode is in progress. -/
def Wb610.unpaidPassage (p : Wb610) (l : LaneNo) : Wb610 :=
  ((p.modLane l fun x =>
      { x with
        rotor := { x.rotor.complete with forced := false }
        counters := { x.counters with unpaid := addOne32 x.counters.unpaid } }).report .unpaid (some l) 0 0
    .none).modLane l (Lane.requestTone .attention)

/-- R93: a free exit. -/
def Wb610.freeExitPassage (p : Wb610) (l : LaneNo) : Wb610 :=
  p.modLane l fun x =>
    { x with
      rotor := x.rotor.complete
      counters := { x.counters with freeExits := addOne32 x.counters.freeExits } }

/-- R94, R169: an emergency passage, counted at the lane and in the tally. -/
def Wb610.emergencyPassage (p : Wb610) (l : LaneNo) : Wb610 :=
  { p with tally := addOne16 p.tally }.modLane l fun x =>
    { x with
      rotor := x.rotor.complete
      counters := { x.counters with emergency := addOne32 x.counters.emergency } }

/-! ## Steps -/

/-- R85: a step of +1, the peak following it. -/
def Rotor.stepForward (r : Rotor) : Rotor :=
  { r with offset := r.offset + 1, peak := max r.peak (r.offset + 1).toNat }

/-- R92: a step of -1; a forced episode ends when it leaves the offset at 0 or below. -/
def Rotor.stepBack (r : Rotor) : Rotor :=
  { r with offset := r.offset - 1, forced := r.forced && decide (0 < r.offset - 1) }

/-- A new rest position (R87, R95). -/
def Rotor.rest (r : Rotor) : Rotor := { r with offset := 0, peak := 0 }

/-- R85-R94, R96: a step of +1, taken in the lane state as it stands. -/
def Wb610.forwardStep (p0 : Wb610) (l : LaneNo) (linkLost : Bool) : Wb610 :=
  let p := p0.modLane l fun x => { x with rotor := x.rotor.stepForward }
  let offset := (p.lane l).rotor.offset
  match (p.lane l).state with
  | .released _ =>
    if 6 ≤ offset then
      let p1 := p.modLane l (Lane.enterPassing p.settings)
      if offset = 36 then p1.completePassage l linkLost else p1
    else p
  | .passing _ => if offset = 36 then p.completePassage l linkLost else p
  | .free _ => if offset = 36 then p.emergencyPassage l else p
  | .test _ => if offset = 36 then p.modLane l fun x => { x with rotor := x.rotor.complete } else p
  | .closed _ | .idle | .verifying | .refusing _ =>
    match (p.lane l).config.direction with
    | .entry =>
      let p1 := if 6 ≤ offset ∧ (p.lane l).rotor.forced = false then p.beginForced l else p
      if offset = 36 then p1.unpaidPassage l else p1
    | .exit => if offset = 36 then p.freeExitPassage l else p

/-- R87, R89: the BACKTURN report, its count the peak offset before the step. -/
def Wb610.reportBackturn (p : Wb610) (l : LaneNo) (peak : Nat) : Wb610 :=
  p.report .backturn (some l) 0 peak (p.lane l).currentKey

/-- R87, R89, R92, R95, R96: a step of -1, taken in the lane state as it stands. -/
def Wb610.backwardStep (p0 : Wb610) (l : LaneNo) (linkLost : Bool) : Wb610 :=
  let p := p0.modLane l fun x => { x with rotor := x.rotor.stepBack }
  let r := (p.lane l).rotor
  if r.offset = -4 then
    let p1 := p.modLane l fun x => { x with rotor := x.rotor.rest }
    match (p.lane l).state with
    | .released _ => (p1.reportBackturn l r.peak).modLane l (Lane.requestTone .attention)
    | .passing _ =>
      (((p1.reportBackturn l r.peak).releaseHold l).modLane l (Lane.requestTone .attention)).leavePassing l
        linkLost
    | .closed _ | .idle | .verifying | .refusing _ | .free _ | .test _ => p1
  else p

/-! ## Encoder faults (R78, R84) -/

/-- R78: the eighth fault since LANE OPEN closes an open lane with cause FAULT, or marks a FREE lane that is
remembered as open. -/
def Wb610.faultClosure (p : Wb610) (l : LaneNo) : Wb610 :=
  match (p.lane l).state with
  | .idle | .verifying | .released _ | .passing _ | .refusing _ =>
    (p.closeLane l .fault).report .laneFault (some l) 0 8 .none
  | .free .wasOpen =>
    (p.modLane l fun x => { x with closePending := some .fault }).report .laneFault (some l) 0 8 .none
  | .free (.wasClosed _) | .closed _ | .test _ => p

/-- R84: an encoder fault. In TEST it changes nothing but the recorded pair, which is already written. -/
def Wb610.encoderFault (p : Wb610) (l : LaneNo) : Wb610 :=
  match (p.lane l).state with
  | .test _ => p
  | .closed _ | .idle | .verifying | .released _ | .passing _ | .refusing _ | .free _ =>
    let count := addOne16 (p.lane l).rotor.faults
    let p1 := (p.modLane l fun x => { x with rotor := { x.rotor with faults := count } }).report .rotorFault
      (some l) 0 count .none
    if count = 8 then p1.faultClosure l else p1

/-! ## The lines (R83) -/

/-- R83: what a change of the lines is. -/
inductive LineChange where
  | same | forward | backward | fault
  deriving DecidableEq, Repr

/-- R83: the new pair against the recorded pair (A, B); the forward cycle is 00, 10, 11, 01. -/
def lineChange (a b a' b' : Bool) : LineChange :=
  if a = a' ∧ b = b' then .same
  else if a ≠ a' ∧ b ≠ b' then .fault
  else if a ≠ a' then (if a = b then .forward else .backward)
  else (if a = b then .backward else .forward)

/-- R83, R84: a change of the lines of a lane, which the recorded pair follows. -/
def Wb610.rotorLines (p : Wb610) (l : LaneNo) (a b linkLost : Bool) : Wb610 :=
  let r := (p.lane l).rotor
  let p1 := p.modLane l fun x => { x with rotor := { x.rotor with lineA := a, lineB := b } }
  match lineChange r.lineA r.lineB a b with
  | .same => p
  | .forward => p1.forwardStep l linkLost
  | .backward => p1.backwardStep l linkLost
  | .fault => p1.encoderFault l

/-- ROTOR_LINE_CHANGE (R83). -/
def execRotorLineChange (l : LaneNo) (a b : Bool) (s : State) (linkLost : Bool := false) :
    Host.Outcome State Fault Refusal :=
  s.act fun p => p.rotorLines l a b linkLost

end Sys2Proof.Machine
end

