-- ==== Sys2Proof/Machine/GateInputs.lean ====
section
/-! DEFINITION. The emergency input, the supply monitor and the event clock (Chapter 10). -/

namespace Sys2Proof.Machine

/-! ## The emergency (R167-R171) -/

/-- R168: what a lane remembers for its return. -/
def LaneState.rememberedAs : LaneState → Remembered
  | .closed c => .wasClosed c
  | .test _ => .wasClosed .host
  | .idle => .wasOpen
  | .verifying => .wasOpen
  | .released _ => .wasOpen
  | .passing _ => .wasOpen
  | .refusing _ => .wasOpen
  | .free b => b

/-- R164, R168: FREE entered: flags dropped, slots and repeat memory emptied, a test release and the commanded
signal ended, the forced episode ended, the tone silenced. The close-pending mark of a passage and the rotor
offset are kept. A TEST lane that showed FREE already keeps its flash phase (R158 against R164; log 24). -/
def Lane.enterFree (x : Lane) : Lane :=
  { x with
    state := .free x.state.rememberedAs
    verified := false
    offlineAdmit := false
    current := none
    next := none
    repeatMemory := none
    testRelease := none
    rotor := { x.rotor with forced := false }
    signals := { x.signals with commanded := .stop, tone := none } }

/-- R168: one lane at the assertion: its query cancelled (R134), its hold released, FREE entered. -/
def Wb610.freeLane (p : Wb610) (l : LaneNo) : Wb610 := ((p.dropQuery l).releaseHold l).modLane l Lane.enterFree

/-- How many lanes hold a hold. -/
def Wb610.holdCount (p : Wb610) : Nat := laneNos.countP fun l => (p.lane l).hold.isSome

/-- R168, R169: the assertion: every lane FREE, the tally 0, EMERGENCY_START with the holds released. -/
def Wb610.assertEmergency (p : Wb610) : Wb610 :=
  { p.eachLane Wb610.freeLane with tally := 0 }.report .emergencyStart none 0 p.holdCount .none

/-- R171: a lane leaves FREE, its offset and peak at 0 (R97). -/
def Lane.leaveFree (x : Lane) : Lane :=
  let y := { x with rotor := x.rotor.rest }
  match x.state with
  | .free (.wasClosed c) => y.close c
  | .free .wasOpen =>
    match x.closePending with
    | some c => y.close c
    | none => y.enterIdle
  | .closed _ | .idle | .verifying | .released _ | .passing _ | .refusing _ | .test _ => x

/-- R171: the deassertion: every lane leaves FREE, EMERGENCY_END with the tally. -/
def Wb610.deassertEmergency (p : Wb610) : Wb610 :=
  (p.eachLane fun q l => q.modLane l Lane.leaveFree).report .emergencyEnd none 0 p.tally .none

/-- R167: the raw contact changes. -/
def Wb610.contactChange (p : Wb610) (isOpen : Bool) : Wb610 :=
  if isOpen = p.rawEmergency then p
  else { p with rawEmergency := isOpen, debounce := if isOpen = p.emergency then none else some debounceTime }

/-- R167: the debounce timer runs out: the debounced state becomes the raw state. -/
def Wb610.debounceExpiry (p : Wb610) : Wb610 :=
  match p.debounce with
  | none => p
  | some _ =>
    let q := { p with debounce := none, emergency := p.rawEmergency }
    if p.rawEmergency = p.emergency then q
    else if p.rawEmergency then q.assertEmergency else q.deassertEmergency

/-! ## The supply (R172, R173) -/

/-- R172: the supply state a sample sets, by the state before it; 18.0 V is 180 and 18.5 V is 185. -/
def SupplyState.after (s : SupplyState) (sample : Nat) : SupplyState :=
  if sample < 180 then .low
  else if 185 ≤ sample then .good
  else match s with
    | .good => .good
    | .unknown => .low
    | .low => .low

/-- R172, R173: a sample, with a SUPPLY report when it changes the state; the sampling timer starts again. -/
def Wb610.supplySample (p : Wb610) (sample : Nat) : Wb610 :=
  let new := p.supply.after sample
  let q := { p with supply := new, lastSample := sample, sampleTimer := sampleTime }
  if new = p.supply then q else q.report .supply none new.code sample .none

/-! ## The clock (R174) -/

/-- R174: a set clock advances by one, and stays at 259,199. -/
def Wb610.clockSecond (p : Wb610) : Wb610 :=
  match p.clock with
  | none => p
  | some c => { p with clock := some (if c < Config.clockMax then c + 1 else c), secondTimer := some (seconds 1) }

/-- EMERGENCY_CONTACT_CHANGE (R167). -/
def execEmergencyContactChange (isOpen : Bool) (s : State) : Host.Outcome State Fault Refusal :=
  s.act fun p => p.contactChange isOpen

/-- DEBOUNCE_EXPIRY (R167). -/
def execDebounceExpiry (s : State) : Host.Outcome State Fault Refusal := s.act Wb610.debounceExpiry

/-- SUPPLY_SAMPLE (R172). -/
def execSupplySample (sample : Fin 401) (s : State) : Host.Outcome State Fault Refusal :=
  s.act fun p => p.supplySample sample.val

/-- CLOCK_SECOND (R174). -/
def execClockSecond (s : State) : Host.Outcome State Fault Refusal := s.act Wb610.clockSecond

end Sys2Proof.Machine
end

