-- ==== Sys2Proof/Machine/LaneRequests.lean ====
section
/-! DEFINITION. The host's requests to a lane (sections 3.1, 3.5 and 5.4). -/

namespace Sys2Proof.Machine

/-- R52, R92, R117: a lane configured: the five settings replaced, the reader put on or off the bus, a forced
episode ended. -/
def Lane.configure (c : LaneConfig) (x : Lane) : Lane :=
  let y := x.changeCardSource x.config.cardSource c.cardSource
  { y with config := c, rotor := { y.rotor with forced := false } }

/-- R52, R117: a lane configured, a poll in flight to its reader marked when the reader leaves the bus; an idle bus
takes up a reader put on it (R109). -/
def Wb610.configuredLane (p : Wb610) (l : LaneNo) (c : LaneConfig) : Wb610 :=
  { p.modLane l (Lane.configure c) with
    poll := p.poll.map (Poll.changeCardSource l (p.lane l).config.cardSource c.cardSource) }.chooseReader

/-- R52: LANE CONFIGURE. -/
def Wb610.configureLane (p : Wb610) (f : Frame) : Wb610 :=
  match laneConfigOf f.payload with
  | none => p.respond f .badValue []
  | some (l, c) =>
    if (p.lane l).state.isClosed then (p.configuredLane l c).respond f .ok []
    else p.respond f .wrongState []

/-- LANE_CONFIGURE (R52). -/
def execLaneConfigure (s : State) : Host.Outcome State Fault Refusal :=
  s.act fun p => p.serveFixed 0x10#8 6 Wb610.configureLane

/-- R73: a lane opened. -/
def Lane.openLane (x : Lane) : Lane :=
  { x.enterIdle with
    repeatMemory := none
    rotor := { x.rotor.rest with faults := 0, forced := false } }

/-- R73: LANE OPEN. -/
def Wb610.openLane (p : Wb610) (f : Frame) : Wb610 :=
  match laneOf (byteAt f.payload 0) with
  | none => p.respond f .badValue []
  | some l =>
    if (p.lane l).state.isClosed then
      if p.clock.isNone || decide (p.supply = .unknown) then p.respond f .notReady []
      else (p.modLane l Lane.openLane).respond f .ok []
    else p.respond f .wrongState []

/-- LANE_OPEN (R73). -/
def execLaneOpen (s : State) : Host.Outcome State Fault Refusal :=
  s.act fun p => p.serveFixed 0x11#8 1 Wb610.openLane

/-- R75: the close-pending mark set with cause HOST and NEXT emptied; a mark already set stands. -/
def Lane.deferClose (x : Lane) : Lane :=
  match x.closePending with
  | some _ => x
  | none => { x with closePending := some .host, next := none }

/-- R74, R75, R76: LANE CLOSE by the lane's state. -/
def Wb610.closeRequest (p : Wb610) (f : Frame) : Wb610 :=
  match laneOf (byteAt f.payload 0) with
  | none => p.respond f .badValue []
  | some l =>
    match (p.lane l).state with
    | .closed _ => p.respond f .ok []
    | .test _ => (p.modLane l (Lane.close .host)).respond f .ok []
    | .idle | .verifying | .released _ | .refusing _ => (p.closeLane l .host).respond f .ok []
    | .passing _ | .free _ => (p.modLane l Lane.deferClose).respond f .closePending []

/-- LANE_CLOSE (R74, R75). -/
def execLaneClose (s : State) : Host.Outcome State Fault Refusal :=
  s.act fun p => p.serveFixed 0x12#8 1 Wb610.closeRequest

/-! ## LANE TEST (R76, R77) -/

/-- R76: TEST entered from CLOSED, whose cause stands. -/
def Lane.enterTest (cause : ClosedCause) (x : Lane) : Lane :=
  { x with
    state := .test cause
    rotor := { x.rotor.rest with forced := false }
    testRelease := none
    signals := { x.signals with commanded := .stop } }

/-- R77: a test action at a lane in TEST. -/
def Lane.testAct (a : TestAction) (x : Lane) : Lane :=
  match a with
  | .release 0 => { x with testRelease := none }
  | .release (n + 1) => { x with testRelease := some (ms (n + 1)) }
  | .signal g => { x with signals := { x.signals with commanded := g } }
  | .tone t => x.requestTone t
  | .offset => x

/-- R77: the rotor offset as a signed byte. -/
def Lane.offsetByte (x : Lane) : Byte := BitVec.ofInt 8 x.rotor.offset

/-- R76, R77: an action taken at a lane, with the offset in the response. -/
def Wb610.testLane (p : Wb610) (f : Frame) (l : LaneNo) (a : TestAction) : Wb610 :=
  match (p.lane l).state with
  | .closed cause =>
    let q := p.modLane l fun x => (x.enterTest cause).testAct a
    q.respond f .ok [(q.lane l).offsetByte]
  | .test _ =>
    let q := p.modLane l (Lane.testAct a)
    q.respond f .ok [(q.lane l).offsetByte]
  | .idle | .verifying | .released _ | .passing _ | .refusing _ | .free _ => p.respond f .wrongState []

/-- Whether a frame is a LANE TEST that the row of an action takes: one of that action, or one that names no
action or has the wrong length, which any of the four rows takes (log 3). -/
def servesTest (action : Nat) (f : Frame) : Bool :=
  decide (f.type = 0x13#8) &&
    (!decide (f.payload.length = 4) || decide (byteAt f.payload 1 = action) || !inRange 1 4 (byteAt f.payload 1))

/-- LANE TEST, as the row of an action takes it. A lane, action or parameter out of range is answered BAD_VALUE
whatever the lane's state (R76 gives no order of the two checks: DESIGN CHOICE, log 23). -/
def Wb610.laneTest (p : Wb610) (action : Nat) : Wb610 :=
  p.serve (servesTest action) fun q f =>
    if f.payload.length ≠ 4 then q.respond f .badRequest []
    else
      match laneOf (byteAt f.payload 0), testActionOf (byteAt f.payload 1) (fieldAt f.payload 2 2) with
      | some l, some a => q.testLane f l a
      | _, _ => q.respond f .badValue []

/-- LANE_TEST_RELEASE (R77). -/
def execLaneTestRelease (s : State) : Host.Outcome State Fault Refusal := s.act fun p => p.laneTest 1

/-- LANE_TEST_SIGNAL (R77). -/
def execLaneTestSignal (s : State) : Host.Outcome State Fault Refusal := s.act fun p => p.laneTest 2

/-- LANE_TEST_TONE (R165). -/
def execLaneTestTone (s : State) : Host.Outcome State Fault Refusal := s.act fun p => p.laneTest 3

/-- LANE_TEST_OFFSET (R77). -/
def execLaneTestOffset (s : State) : Host.Outcome State Fault Refusal := s.act fun p => p.laneTest 4

/-! ## REMOTE PRESENT (R118) -/

/-- R118, check 1: a card key with its padding zero. -/
def remoteKeyOf (payload : List Byte) : Option Key :=
  match keyAt payload 1 with
  | some k => if k.kind ≠ .barcode ∧ k.paddingZero then some k else none
  | none => none

/-- R118: the result code of the outcome the lane hands back. -/
def Arrival.result : Arrival → ResultCode
  | .taken => .taken
  | .repeated => .repeated
  | .notOpen => .wrongState

/-- R118: REMOTE PRESENT. -/
def Wb610.remotePresent (linkLost : Bool) (p : Wb610) (f : Frame) : Wb610 :=
  match laneOf (byteAt f.payload 0), remoteKeyOf f.payload with
  | some l, some k =>
    if (p.lane l).config.cardSource = .remote then
      let done := p.arrive l { key := k, source := .remote } linkLost
      done.1.respond f done.2.result []
    else p.respond f .badValue []
  | _, _ => p.respond f .badValue []

/-- REMOTE_PRESENT (R118). -/
def execRemotePresent (s : State) (linkLost : Bool := false) : Host.Outcome State Fault Refusal :=
  s.act fun p => p.serveFixed 0x31#8 12 (Wb610.remotePresent linkLost)

end Sys2Proof.Machine
end

