-- ==== Sys2Proof/Machine/LaneTimers.lean ====
section
/-! DEFINITION. The expiries of a lane's timers (sections 3.3 to 3.5) and of a query's deadline (R132). An expiry acts only
while its timer runs; a lane timer runs only in its own state. -/

namespace Sys2Proof.Machine

/-- R70: the hold released, ABANDONED placed, the return to IDLE. -/
def Wb610.admitWindowExpiry (p : Wb610) (l : LaneNo) (linkLost : Bool) : Wb610 :=
  match (p.lane l).state with
  | .released _ => ((p.releaseHold l).report .abandoned (some l) 0 0 (p.lane l).currentKey).returnToIdle l linkLost
  | .closed _ | .idle | .verifying | .passing _ | .refusing _ | .free _ | .test _ => p

/-- R71: the hold released, STALLED placed, IDLE, or CLOSED with close-pending. The offset stays. -/
def Wb610.passageLimitExpiry (p : Wb610) (l : LaneNo) (linkLost : Bool) : Wb610 :=
  match (p.lane l).state with
  | .passing _ => ((p.releaseHold l).report .stalled (some l) 0 0 (p.lane l).currentKey).leavePassing l linkLost
  | .closed _ | .idle | .verifying | .released _ | .refusing _ | .free _ | .test _ => p

/-- R72: the return to IDLE. -/
def Wb610.refusalDisplayExpiry (p : Wb610) (l : LaneNo) (linkLost : Bool) : Wb610 :=
  match (p.lane l).state with
  | .refusing _ => p.returnToIdle l linkLost
  | .closed _ | .idle | .verifying | .released _ | .passing _ | .free _ | .test _ => p

/-- VERIFY_DEADLINE_EXPIRY (R132). -/
def execVerifyDeadlineExpiry (l : LaneNo) (s : State) : Host.Outcome State Fault Refusal :=
  s.act fun p => p.settleWithoutHost l

/-- ADMIT_WINDOW_EXPIRY (R70). -/
def execAdmitWindowExpiry (l : LaneNo) (s : State) (linkLost : Bool := false) :
    Host.Outcome State Fault Refusal :=
  s.act fun p => p.admitWindowExpiry l linkLost

/-- PASSAGE_LIMIT_EXPIRY (R71). -/
def execPassageLimitExpiry (l : LaneNo) (s : State) (linkLost : Bool := false) :
    Host.Outcome State Fault Refusal :=
  s.act fun p => p.passageLimitExpiry l linkLost

/-- REFUSAL_DISPLAY_EXPIRY (R72). -/
def execRefusalDisplayExpiry (l : LaneNo) (s : State) (linkLost : Bool := false) :
    Host.Outcome State Fault Refusal :=
  s.act fun p => p.refusalDisplayExpiry l linkLost

/-- NEXT_AGE_EXPIRY (R62, R69): the presentation in NEXT stays there and will be discarded at the next return
to IDLE. -/
def execNextAgeExpiry (l : LaneNo) (s : State) : Host.Outcome State Fault Refusal :=
  s.act fun p => p.modLane l fun x => { x with next := x.next.map fun w => { w with age := none } }

/-- REPEAT_TIMER_EXPIRY (R64): the key stays in the repeat memory but no longer removes arrivals. -/
def execRepeatTimerExpiry (l : LaneNo) (s : State) : Host.Outcome State Fault Refusal :=
  s.act fun p => p.modLane l fun x =>
    { x with repeatMemory := x.repeatMemory.map fun m => { m with timer := none } }

/-- TEST_RELEASE_EXPIRY (R77): the lock engages. -/
def execTestReleaseExpiry (l : LaneNo) (s : State) : Host.Outcome State Fault Refusal :=
  s.act fun p => p.modLane l fun x => { x with testRelease := none }

end Sys2Proof.Machine
end

