-- ==== Sys2Proof/Machine/ServerLine.lean ====
section
/-! DEFINITION. The server line (Chapter 11): the receiver, the silence monitor, the transmit arbiter, and what power-on and
the RESTART response bring. -/

namespace Sys2Proof.Machine

/-! ## Receiving (R180-R182) -/

/-- R181: the frame being received is discarded, with its LINE_ERROR report; HUNTING again. -/
def Wb610.discardFrame (p : Wb610) (cause : Nat) : Wb610 :=
  { p with receiver := .hunting }.report .lineError none cause 0 .none

/-- R185: a valid frame restarts the silence timer and brings an OFFLINE link ONLINE, with its report. -/
def Wb610.hostHeard (p : Wb610) : Wb610 :=
  let q := { p with silence := some p.settings.silenceTime }
  if p.online then q else { q with online := true }.report .link none 1 0 .none

/-- R182: a valid frame: the silence monitor first, then the receive buffer or the overrun discard. -/
def Wb610.validFrame (p : Wb610) (f : Frame) : Wb610 :=
  let q := p.hostHeard
  if q.rxBuffer.length < Config.receiveCapacity then { q with receiver := .hunting, rxBuffer := q.rxBuffer ++ [f] }
  else q.discardFrame 5

/-- R180, R181: a byte stored in the frame being received; `got` is what has been stored with it. -/
def Wb610.storeByte (p : Wb610) (got : List Byte) : Wb610 :=
  if got.length < 2 then { p with receiver := .receiving got gapTime }
  else
    let length := fieldAt got 0 2
    if length < 2 ∨ 802 < length then p.discardFrame 3
    else if got.length < length + 4 then { p with receiver := .receiving got gapTime }
    else if crc16 (got.take (length + 2)) = BitVec.ofNat 16 (fieldAt got (length + 2) 2) then
      p.validFrame
        { type := BitVec.ofNat 8 (byteAt got 2), tag := BitVec.ofNat 8 (byteAt got 3),
          payload := (got.drop 4).take (length - 2) }
    else p.discardFrame 4

/-- R180: one byte arrives. A byte with a parity or framing error discards the frame with cause 1, also where it is
the second byte of a LENGTH out of range or the last byte of a CHECK that does not agree: R181 gives no order of two
causes found in one event (DESIGN CHOICE, log 25). -/
def Wb610.receiveByte (p : Wb610) (b : Byte) (lineError : Bool) : Wb610 :=
  match p.receiver with
  | .hunting =>
    if b = startByte ∧ lineError = false then { p with receiver := .receiving [] gapTime } else p
  | .receiving stored _ => if lineError then p.discardFrame 1 else p.storeByte (stored ++ [b])

/-- R181: the gap timer runs out. -/
def Wb610.gapTimeout (p : Wb610) : Wb610 :=
  match p.receiver with
  | .hunting => p
  | .receiving _ _ => p.discardFrame 2

/-! ## Sending (R186, R188) -/

/-- The response to a RESTART that was taken: TYPE 0x50 plus 0x80 with the result OK. -/
def Frame.isRestartResponse (f : Frame) : Bool := decide (f.type = 0xD0#8) && decide (f.payload = [0#8])

/-- The RESTART response stands on the line and its last byte has not been sent (R193). -/
def Wb610.sendingRestartResponse (p : Wb610) : Bool :=
  decide (p.handler = .awaitingRestartResponse) && p.sending.any Frame.isRestartResponse

/-- R187, R188: the oldest report taken; a drop count that is not 0 is told at once in the place freed, and
the handler is free once START has gone (R183). -/
def Wb610.takeReport (p : Wb610) (r : Report) (rest : List Report) : Wb610 :=
  let q :=
    { p with
      reports := rest
      sending := some r.frame
      handler := if r.kind = .start ∧ p.handler = .awaitingStart then .ready else p.handler }
  if p.dropCount = 0 then q
  else { q with dropCount := 0 }.report .reportsDropped none 0 p.dropCount .none

/-- R186: the line is free: the oldest response, else the oldest VERIFY message, else, while ONLINE, the
oldest report; else the line is quiet. The frame sent before has gone out to its end (log 4), but for the
RESTART response, whose end is an event of its own. -/
def Wb610.arbiter (p : Wb610) : Wb610 :=
  if p.sendingRestartResponse then p
  else match p.responses with
    | f :: rest => { p with responses := rest, sending := some f }
    | [] =>
      match p.verifyQueue with
      | m :: rest => { p with verifyQueue := rest, sending := some m.frame }
      | [] =>
        match p.online, p.reports with
        | true, r :: rest => p.takeReport r rest
        | true, [] => { p with sending := none }
        | false, _ => { p with sending := none }

/-- R193: the last byte of the RESTART response has been sent: the queues and the receive buffer emptied, the
drop count 0, START with reason RESTART (R178) the only report. -/
def Wb610.restartResponseSent (p : Wb610) : Wb610 :=
  if p.sendingRestartResponse then
    { p with
      reports := [.start p.clock 2 p.restartReleased p.nextSequence]
      verifyQueue := []
      rxBuffer := []
      dropCount := 0
      handler := .awaitingStart
      sending := none }
  else p

/-- POWER_ON (R177). -/
def execPowerOn (lineA lineB : BitVec 10) (contactOpen : Bool) (s : State) : Host.Outcome State Fault Refusal :=
  s.act fun _ => .powerOn lineA lineB contactOpen

/-- RECEIVER_BYTE (R180). -/
def execReceiverByte (b : Byte) (lineError : Bool) (s : State) : Host.Outcome State Fault Refusal :=
  s.act fun p => p.receiveByte b lineError

/-- GAP_TIMEOUT (R181). -/
def execGapTimeout (s : State) : Host.Outcome State Fault Refusal := s.act Wb610.gapTimeout

/-- SILENCE_TIMEOUT (R185). -/
def execSilenceTimeout (s : State) : Host.Outcome State Fault Refusal := s.act Wb610.silenceTimeout

/-- TRANSMIT_ARBITER (R186). -/
def execTransmitArbiter (s : State) : Host.Outcome State Fault Refusal := s.act Wb610.arbiter

/-- RESTART_RESPONSE_SENT (R193). -/
def execRestartResponseSent (s : State) : Host.Outcome State Fault Refusal := s.act Wb610.restartResponseSent

end Sys2Proof.Machine
end

