-- ==== Sys2Proof/WellFormed.lean ====
section
/-! DEFINITION. Which operands an event of the hardware can have. Most ranges are in the types (a lane is a Fin 10, a
bucket a Fin 4096, a supply sample a Fin 401); what is left is what a memory fault may write (R5: "other
values within their ranges", the ranges of R7). -/

namespace Sys2Proof

/-- R7: each minute 0-4,319, from not later than until. -/
def Window.inRange (w : Window) : Bool :=
  decide (w.fromMinute ≤ w.untilMinute) && decide (w.untilMinute ≤ Config.minuteMax)

/-- R7: a last-use time is 0-259,199. -/
def LastUse.inRange (u : LastUse) : Bool :=
  decide (u.time ≤ Config.clockMax)

/-- R5, R7: the values a memory fault leaves lie within their ranges. -/
def Disturbance.inRange (d : Disturbance) : Bool :=
  d.window.all Window.inRange && d.lastUse.all LastUse.inRange && decide (d.expiry ≤ Config.expiryMax)

/-- A well-formed command: its operands are values the event can have. -/
def Instr.wellFormed (i : Instr) : Bool :=
  match i with
  | .memoryFault _ values _ =>
    decide (values.length ≤ Config.bucketCapacity) && values.all Disturbance.inRange
  | _ => true

end Sys2Proof
end

