-- ==== Sys2Proof/Machine/Sweep.lean ====
section
/-! DEFINITION. The table sweep (Chapter 7) and the memory fault it looks for (R5). -/

namespace Sys2Proof.Machine

/-- R138, R139: the comparison of a bucket's stored code with the code of its contents; a bucket that differs
and was not SUSPECT is marked and reported. -/
def Wb610.compareBucket (p : Wb610) (b : Nat) : Wb610 :=
  let v := p.table.bucket b
  if v.code ≠ checkCode v.entries ∧ v.suspect = false then
    { p with table := p.table.setBucket b { v with suspect := true } }.report .bucketSuspect none 0 b .none
  else p

/-- R140: one PASSOUT_EXPIRED report for each entry converted, in list order. -/
def Wb610.reportExpired (p : Wb610) (b : Nat) : List Entry → Wb610
  | [] => p
  | e :: rest => (p.report .passoutExpired none 0 b (.credential e.key)).reportExpired b rest

/-- R140: the conversion of a bucket's run-out passouts; the code is recomputed once, and only when an entry
was converted. -/
def Wb610.convertExpired (p : Wb610) (b : Nat) : Wb610 :=
  let es := (p.table.bucket b).entries
  let gone := es.filter (Entry.expired p.clock)
  if gone.isEmpty then p
  else
    { p with
      table := p.table.writeEntries b (es.map fun e : Entry => if e.expired p.clock then e.spend else e) }.reportExpired b
      gone

/-- R137: 4,095 is followed by 0. -/
def nextBucket (b : Fin 4096) : Fin 4096 := ⟨(b.val + 1) % 4096, by omega⟩

/-- R137, R138: a visit to the bucket the pointer names, the comparison first and the conversion after it,
and the pointer advanced. -/
def Wb610.visit (p : Wb610) : Wb610 :=
  let b := p.sweepPointer
  { (p.compareBucket b.val).convertExpired b.val with sweepPointer := nextBucket b }

/-- R137: a visit in normal pacing; the visit timer starts again with the sweep period as it stands. -/
def Wb610.sweepVisit (p : Wb610) : Wb610 :=
  match p.visitTimer with
  | some _ => { p.visit with visitTimer := some p.settings.visitTime }
  | none => p

/-- R144: the end of a fast pass, with its SWEEP_DONE report; normal pacing resumes. The start and the
count stay as they stood (log 17). -/
def Wb610.endFastPass (p : Wb610) : Wb610 :=
  { p with fastPass := false, visitTimer := some p.settings.visitTime }.report .sweepDone none 0 p.fastCount .none

/-- R143, R144: the next visit of a fast pass: the bucket counted when the visit leaves it SUSPECT, and the
pass ended when the pointer is back at its start. -/
def Wb610.fastPassVisit (p : Wb610) : Wb610 :=
  if p.fastPass then
    let p1 := p.visit
    let p2 := { p1 with fastCount := p1.fastCount + (p1.table.bucket p.sweepPointer.val).suspect.toNat }
    if p2.sweepPointer = p2.fastStart then p2.endFastPass else p2
  else p

/-- SWEEP NOW (R143): a fast pass begins. -/
def Wb610.beginFastPass (p : Wb610) : Wb610 :=
  { p with fastPass := true, fastStart := p.sweepPointer, fastCount := 0, visitTimer := none }

/-! ## Memory faults (R5) -/

/-- R5: an entry state with the value of its expiry, where it carries one, changed. -/
def EntryState.disturb (expiry : Nat) : EntryState → EntryState
  | .outOnPassout _ => .outOnPassout expiry
  | .held h =>
    match h.prior with
    | .outOnPassout _ => .held { h with prior := .outOnPassout expiry }
    | .outside => .held h
    | .inside => .held h
  | .outside => .outside
  | .inside => .inside
  | .spent => .spent
  | .void => .void

/-- R5: an entry after a memory fault. Key, state, hold record, marks, passouts and the presence of the expiry
are left; class, groups, window, verify flag, last use and the value of the expiry may change. -/
def Entry.disturb (d : Disturbance) (e : Entry) : Entry :=
  { e with
    cls := d.cls
    groups := d.groups
    window := d.window
    verify := d.verify
    lastUse := d.lastUse
    state := e.state.disturb d.expiry }

/-- R5: the entries of a bucket after a memory fault, in list order. -/
def disturbEntries : List Entry → List Disturbance → List Entry
  | e :: es, d :: ds => e.disturb d :: disturbEntries es ds
  | es, _ => es

/-- R5: a memory fault in one bucket: contents and stored code changed, the code not recomputed. Values out of
their ranges are none a fault leaves, and nothing changes (log 10). -/
def Wb610.memoryFault (p : Wb610) (b : Fin 4096) (values : List Disturbance) (code : Word16) : Wb610 :=
  let v := p.table.bucket b.val
  if values.all Disturbance.inRange then
    { p with
      table := p.table.setBucket b.val
        { entries := disturbEntries v.entries values, code := code, suspect := v.suspect } }
  else p

/-- SWEEP_VISIT (R137). -/
def execSweepVisit (s : State) : Host.Outcome State Fault Refusal := s.act Wb610.sweepVisit

/-- FAST_PASS_VISIT (R143). -/
def execFastPassVisit (s : State) : Host.Outcome State Fault Refusal := s.act Wb610.fastPassVisit

/-- MEMORY_FAULT (R5). -/
def execMemoryFault (b : Fin 4096) (values : List Disturbance) (code : Word16) (s : State) :
    Host.Outcome State Fault Refusal :=
  s.act fun p => p.memoryFault b values code

end Sys2Proof.Machine
end

