-- ==== Sys2Proof/Machine/PartRequests.lean ====
section
/-! DEFINITION. The host's requests to the part as a whole: unknown TYPEs (R184), PING (R189), STATUS READ (R190), GATE
CONFIGURE (R191), TIME SET (R175), JOURNAL READ and COUNTERS READ (Chapter 8), SWEEP NOW (R143) and RESTART
(R176). -/

namespace Sys2Proof.Machine

/-- The TYPEs of the requests (R194). -/
def requestTypes : List Byte :=
  [0x01#8, 0x02#8, 0x03#8, 0x04#8, 0x10#8, 0x11#8, 0x12#8, 0x13#8, 0x20#8, 0x21#8, 0x22#8, 0x23#8, 0x24#8,
   0x25#8, 0x26#8, 0x27#8, 0x30#8, 0x31#8, 0x40#8, 0x41#8, 0x42#8, 0x50#8]

/-- UNKNOWN_TYPE (R184): TYPE 0xFF, the frame's TAG, BAD_REQUEST and the TYPE received. -/
def execUnknownType (s : State) : Host.Outcome State Fault Refusal :=
  s.act fun p => p.serve (fun f => !requestTypes.contains f.type) fun q f =>
    { q with
      responses := q.responses ++ [{ type := 0xFF#8, tag := f.tag, payload := [ResultCode.badRequest.code, f.type] }] }

/-! ## PING and STATUS READ -/

/-- R189, R194: the response fields of PING. -/
def Wb610.pingFields (p : Wb610) : List Byte :=
  [byte (onlineCode p.online)] ++ optional32 p.clock ++ [byte p.supply.code] ++ beBytes 2 p.lastSample
    ++ [flagByte p.emergency]

/-- PING (R189). -/
def execPing (s : State) : Host.Outcome State Fault Refusal :=
  s.act fun p => p.serveFixed 0x01#8 0 fun q f => q.respond f .ok q.pingFields

/-- R194: the slots byte: 0 both empty, 1 CURRENT only, 2 both. -/
def Lane.slotsCode (x : Lane) : Nat :=
  match x.current, x.next with
  | none, _ => 0
  | some _, none => 1
  | some _, some _ => 2

/-- R190, R194: the parts of the 22 bytes of the gate, in order, each with the block it is read from. -/
def gateParts : List (StatusBlock × (Wb610 → List Byte)) :=
  [(.serverLine, fun p => [byte (onlineCode p.online)]),
   (.eventClock, fun p => optional32 p.clock),
   (.gateInputs, fun p => [byte p.supply.code] ++ beBytes 2 p.lastSample ++ [flagByte p.emergency]),
   (.credentialTable, fun p => beBytes 4 p.table.entryCount),
   (.tableSweep, fun p => beBytes 2 p.sweepPointer.val ++ [flagByte p.fastPass]),
   (.credentialTable, fun p => beBytes 2 p.table.suspectTotal),
   (.verifyUnit, fun p => [byte p.verifyQueue.length]),
   (.serverLine, fun p => [byte p.reports.length] ++ beBytes 2 p.dropCount)]

/-- R190, R194: the parts of the 17 bytes of a lane, in order, each with the block it is read from. -/
def laneParts (l : LaneNo) : List (StatusBlock × (Lane → List Byte)) :=
  [(.laneController l, fun x =>
      [byte x.state.code, byte x.state.causeCode, byte (x.closePending.elim 0 (·.code)), byte x.slotsCode]),
   (.rotorDecoder l, fun x => [x.offsetByte, byte x.rotor.peak] ++ beBytes 2 x.rotor.faults),
   (.barcodePort l, fun x => [flagByte x.port.fault] ++ beBytes 2 x.port.badCount),
   (.cardReaderBus, fun x => [byte (onlineCode x.reader.online), byte x.reader.misses]),
   (.verifyUnit, fun x => [byte (x.slot.elim 0xFF (·.tag)), byte (x.slot.elim 0 (·.cause.code))]),
   (.signalUnit l, fun x => [byte x.signals.shown.code, byte (x.signals.tone.elim 0 (·.pattern.code))])]

/-- R190: the parts of the STATUS READ response, the gate once and then lane 0 to lane 9. -/
def statusParts : List (StatusBlock × (Wb610 → List Byte)) :=
  gateParts ++ laneNos.flatMap fun l => (laneParts l).map fun r => (r.1, fun p => r.2 (p.lane l))

/-- R190: some blocks read: a part not read yet whose block is among them takes the bytes of this moment. -/
def Wb610.readBlocks (p : Wb610) (blocks : List StatusBlock) (read : List (Option (List Byte))) :
    List (Option (List Byte)) :=
  List.zipWith (fun r old => old <|> if r.1 ∈ blocks then some (r.2 p) else none) statusParts read

/-- R190: STATUS READ's next step: the response once every part has been read, else the request goes on. -/
def Wb610.continueStatus (p : Wb610) (tag : Byte) (read : List (Option (List Byte))) : Wb610 :=
  if read.all Option.isSome then
    { p with request := none }.answer 0x02#8 tag .ok (read.filterMap id).flatten
  else { p with request := some (.status tag read) }

/-- R190: some blocks read, for the STATUS READ in progress or for the one that is now taken. -/
def Wb610.statusRead (p : Wb610) (blocks : List StatusBlock) : Wb610 :=
  match p.request with
  | some (.status tag read) => p.continueStatus tag (p.readBlocks blocks read)
  | some (.load _ _ _) | some (.delete _ _ _) | some (.revoke _ _ _) | some (.counters _ _ _ _) => p
  | none =>
    p.serveFixed 0x02#8 0 fun q f =>
      q.continueStatus f.tag (q.readBlocks blocks (statusParts.map fun _ => none))

/-- STATUS_READ (R190). One command reads its blocks at one moment; the blocks of one request are read by one command
or by several, with other events between (DESIGN CHOICE, log 6). -/
def execStatusRead (s : State) (blocks : List StatusBlock := StatusBlock.every) :
    Host.Outcome State Fault Refusal :=
  s.act fun p => p.statusRead blocks

/-! ## Settings and clock -/

/-- R191: GATE CONFIGURE. Timers that run keep the duration they started with. -/
def Wb610.configureGate (p : Wb610) (f : Frame) : Wb610 :=
  match settingsOf f.payload with
  | none => p.respond f .badValue []
  | some c => { p with settings := c }.respond f .ok []

/-- GATE_CONFIGURE (R191). -/
def execGateConfigure (s : State) : Host.Outcome State Fault Refusal :=
  s.act fun p => p.serveFixed 0x03#8 12 Wb610.configureGate

/-- R175: TIME SET, the previous value in the response; the next advance comes one second later. -/
def Wb610.setTime (p : Wb610) (f : Frame) : Wb610 :=
  let value := fieldAt f.payload 0 4
  if value ≤ Config.clockMax then
    { p with clock := some value, secondTimer := some (seconds 1) }.respond f .ok (optional32 p.clock)
  else p.respond f .badValue []

/-- TIME_SET (R175). -/
def execTimeSet (s : State) : Host.Outcome State Fault Refusal :=
  s.act fun p => p.serveFixed 0x04#8 4 Wb610.setTime

/-! ## JOURNAL READ (R150-R152) -/

/-- R150: the distance of a sequence number: the appends from it to the next sequence, round the ring of
4,294,967,295 numbers. -/
def sequenceDistance (next s : Nat) : Nat :=
  if s ≤ next then next - s else next + Config.count32Max - s

/-- R152: the result and the records for a start sequence. -/
def Wb610.locate (p : Wb610) (start : Nat) : ResultCode × List JournalRecord :=
  let h := p.journal.length
  let d := sequenceDistance p.nextSequence start
  if h = 0 then (.ok, [])
  else if 1 ≤ d ∧ d ≤ h then (.ok, p.journal.drop (h - d))
  else if d = 0 ∨ 2147483648 ≤ d then (.ok, [])
  else (.overwritten, p.journal)

/-- R151: the response fields of JOURNAL READ. -/
def Wb610.journalFields (p : Wb610) (records : List JournalRecord) : List Byte :=
  [byte records.length] ++ beBytes 4 (p.journal.head?.elim 0 (·.sequence))
    ++ beBytes 4 (p.journal.getLast?.elim 0 (·.sequence)) ++ beBytes 4 p.nextSequence
    ++ records.flatMap JournalRecord.record

/-- R151, R152: JOURNAL READ. -/
def Wb610.readJournal (p : Wb610) (f : Frame) : Wb610 :=
  let start := fieldAt f.payload 0 4
  let count := byteAt f.payload 4
  if start = 0 ∨ count = 0 ∨ 32 < count then p.respond f .badValue []
  else
    let found := p.locate start
    p.respond f found.1 (p.journalFields (found.2.take count))

/-- JOURNAL_READ (R151). -/
def execJournalRead (s : State) : Host.Outcome State Fault Refusal :=
  s.act fun p => p.serveFixed 0x40#8 5 Wb610.readJournal

/-! ## COUNTERS READ (R154, R155) -/

/-- R154: a lane's six values in order. -/
def Counters.fields (c : Counters) : List Byte :=
  beBytes 4 c.admitted ++ beBytes 4 c.passouts ++ beBytes 4 c.refused ++ beBytes 4 c.freeExits
    ++ beBytes 4 c.unpaid ++ beBytes 4 c.emergency

/-- Whether a frame is a COUNTERS READ that the row of an option takes: one with that option, or one that
names neither option or has the wrong length, which either row takes (log 3). -/
def servesCounters (option : Nat) (f : Frame) : Bool :=
  decide (f.type = 0x41#8) &&
    (!decide (f.payload.length = 1) || decide (byteAt f.payload 0 = option) || !inRange 1 2 (byteAt f.payload 0))

/-- R154: COUNTERS READ begun: ten operations, one at each lane, to be taken (R155). -/
def Wb610.readCounters (p : Wb610) (option : Nat) : Wb610 :=
  p.serve (servesCounters option) fun q f =>
    if f.payload.length ≠ 1 then q.respond f .badRequest []
    else if inRange 1 2 (byteAt f.payload 0) then
      { q with
        request := some (.counters f.tag (decide (byteAt f.payload 0 = 2)) laneNos [byte (byteAt f.payload 0)]) }
    else q.respond f .badValue []

/-- COUNTERS_READ_KEEP (R154). -/
def execCountersReadKeep (s : State) : Host.Outcome State Fault Refusal := s.act fun p => p.readCounters 1

/-- COUNTERS_READ_CLEAR (R154). -/
def execCountersReadClear (s : State) : Host.Outcome State Fault Refusal := s.act fun p => p.readCounters 2

/-- COUNTERS READ's next step: the response after the tenth operation, else the request goes on. -/
def Wb610.continueCounters (p : Wb610) (tag : Byte) (clear : Bool) (todo : List LaneNo) (values : List Byte) :
    Wb610 :=
  if todo.isEmpty then { p with request := none }.answer 0x41#8 tag .ok values
  else { p with request := some (.counters tag clear todo values) }

/-- R155: the next lane's operation: its six counters read, and cleared under clear, in one operation. -/
def Wb610.countersReadLane (p : Wb610) : Wb610 :=
  match p.request with
  | some (.counters tag clear (l :: todo) values) =>
    let q := if clear then p.modLane l fun x => { x with counters := .zero } else p
    q.continueCounters tag clear todo (values ++ (p.lane l).counters.fields)
  | some (.counters tag clear [] values) => p.continueCounters tag clear [] values
  | some (.load _ _ _) | some (.delete _ _ _) | some (.revoke _ _ _) | some (.status _ _) | none => p

/-- COUNTERS_READ_LANE (R155). -/
def execCountersReadLane (s : State) : Host.Outcome State Fault Refusal := s.act Wb610.countersReadLane

/-! ## SWEEP NOW and RESTART -/

/-- R143: SWEEP NOW. -/
def Wb610.sweepNow (p : Wb610) (f : Frame) : Wb610 :=
  if p.fastPass then p.respond f .wrongState [] else p.beginFastPass.respond f .ok []

/-- SWEEP_NOW (R143). -/
def execSweepNow (s : State) : Host.Outcome State Fault Refusal :=
  s.act fun p => p.serveFixed 0x42#8 0 Wb610.sweepNow

/-- R81: the lane state RESTART leaves: FREE stays FREE and is remembered as CLOSED with cause RESTART. -/
def LaneState.afterRestart : LaneState → LaneState
  | .free _ => .free (.wasClosed .restart)
  | .closed _ | .idle | .verifying | .released _ | .passing _ | .refusing _ | .test _ => .closed .restart

/-- R81, R101, R120, R166: one lane at RESTART: the lane, its decoder, its port, its reader, its signals. The
configuration, the counters, the recorded line pair and the query counter are kept. -/
def Lane.restart (x : Lane) : Lane :=
  { x with
    state := x.state.afterRestart
    closePending := none
    verified := false
    offlineAdmit := false
    current := none
    next := none
    repeatMemory := none
    testRelease := none
    rotor := { x.rotor.rest with faults := 0, forced := false }
    port := .fresh
    reader := .fresh
    signals := { x.signals with commanded := .stop, tone := none } }

/-- R31, R81, R134: one lane's query cancelled and hold released, and the lane restarted. -/
def Wb610.restartLane (p : Wb610) (l : LaneNo) : Wb610 :=
  ((p.dropQuery l).releaseHold l).modLane l Lane.restart

/-- R176: RESTART at every block. The server line's own part comes when the response has been sent (R193). -/
def Wb610.restartBlocks (p : Wb610) : Wb610 :=
  let q := p.eachLane Wb610.restartLane
  { q with
    pollPointer := 9
    poll := none
    verifyQueue := []
    visitTimer := some p.settings.visitTime
    fastPass := false
    fastCount := 0
    handler := .awaitingRestartResponse
    restartReleased := p.holdCount }.chooseReader

/-- RESTART (R176). -/
def execRestart (s : State) : Host.Outcome State Fault Refusal :=
  s.act fun p => p.serveFixed 0x50#8 0 fun q f => q.restartBlocks.respond f .ok []

end Sys2Proof.Machine
end

