-- ==== Sys2Proof/Machine/Ports.lean ====
section
/-! DEFINITION. The barcode ports (section 5.1): assembling characters into lines and classifying each line. -/

namespace Sys2Proof.Machine

/-- R103: what the port makes of one character that does not end the line. -/
def Port.take (c : Byte) (framingError : Bool) (b : Port) : Port :=
  if c = 10 then b
  else if b.counted < Config.lineCapacity then
    if framingError then { b with counted := b.counted + 1, lineBad := true }
    else { b with buffer := b.buffer ++ [c], counted := b.counted + 1, lineBad := b.lineBad || !isDigit c }
  else { b with lineBad := true }

/-- R104: a line is bad when it is marked so or holds fewer than 8 characters or more than 19. -/
def Port.lineGood (b : Port) : Bool := !b.lineBad && inRange 8 19 b.buffer.length

/-- R104: the next character begins a new line. -/
def Port.newLine (b : Port) : Port := { b with buffer := [], counted := 0, lineBad := false }

/-- R106: the presentation of a good line: the last digit is the check digit, those before it the data
digits. -/
def barcodePresentation (line : List Byte) : Presentation :=
  { key := barcodeKey (decimalFrom 0 line.dropLast)
    source := .barcode (decimalFrom 0 (line.drop (line.length - 1))) }

/-- R106: a good line: the presentation handed to the lane, then a faulted port back to OK with its report,
then the bad count 0. -/
def Wb610.goodLine (p : Wb610) (l : LaneNo) (line : List Byte) (linkLost : Bool) : Wb610 :=
  let p1 := (p.arrive l (barcodePresentation line) linkLost).1
  let port := (p1.lane l).port
  let p2 := if port.fault then p1.report .barcodeOk (some l) 0 port.badCount .none else p1
  p2.modLane l fun x => { x with port := { x.port with fault := false, badCount := 0 } }

/-- R107: a bad line: counted, ERROR asked at an open lane, FAULT with its report at the tenth. -/
def Wb610.badLine (p : Wb610) (l : LaneNo) : Wb610 :=
  let port := (p.lane l).port
  let count := addOne16 port.badCount
  let p1 := p.modLane l fun x =>
    let y := { x with port := { x.port with badCount := count } }
    if x.state.isOpen then y.requestTone .error else y
  if count = 10 ∧ port.fault = false then
    (p1.modLane l fun x => { x with port := { x.port with fault := true } }).report .barcodeFault (some l) 0 10 .none
  else p1

/-- R104, R105: a carriage return ends the line: with barcode OFF it is discarded, else it is classified. -/
def Wb610.endLine (p : Wb610) (l : LaneNo) (linkLost : Bool) : Wb610 :=
  let port := (p.lane l).port
  let p1 := p.modLane l fun x => { x with port := x.port.newLine }
  if (p.lane l).config.barcodeOn then
    if port.lineGood then p1.goodLine l port.buffer linkLost else p1.badLine l
  else p1

/-- R103: one character at a barcode port. -/
def Wb610.barcodeCharacter (p : Wb610) (l : LaneNo) (c : Byte) (framingError linkLost : Bool) : Wb610 :=
  if c = 13 ∧ framingError = false then p.endLine l linkLost
  else p.modLane l fun x => { x with port := x.port.take c framingError }

/-- BARCODE_CHARACTER (R103). -/
def execBarcodeCharacter (l : LaneNo) (c : Byte) (framingError : Bool) (s : State) (linkLost : Bool := false) :
    Host.Outcome State Fault Refusal :=
  s.act fun p => p.barcodeCharacter l c framingError linkLost

end Sys2Proof.Machine
end

