-- ==== Sys2Proof/Machine/Signals.lean ====
section
/-! DEFINITION. The signal units' own events: a pattern's end (R161) and a flashing lamp's half-cycle (R158). -/

namespace Sys2Proof.Machine

/-- R158: the other half of a flash cycle begins. -/
def FlashPhase.toggle (f : FlashPhase) : FlashPhase := { lit := !f.lit, left := flashHalf }

/-- TONE_PATTERN_END (R161): the length of the pattern being played has passed. -/
def execTonePatternEnd (l : LaneNo) (s : State) : Host.Outcome State Fault Refusal :=
  s.act fun p => p.modLane l fun x => { x with signals := { x.signals with tone := none } }

/-- FLASH_PHASE (R158): a flashing lamp toggles; a steady signal has no phase. -/
def execFlashPhase (l : LaneNo) (s : State) : Host.Outcome State Fault Refusal :=
  s.act fun p => p.modLane l fun x =>
    { x with signals := { x.signals with flash := x.signals.flash.map FlashPhase.toggle } }

end Sys2Proof.Machine
end

