-- ==== Sys2Proof/Machine/TableRequests.lean ====
section
/-! DEFINITION. The host's requests to the credential table (sections 1.5 to 1.7). -/

namespace Sys2Proof.Machine

/-! ## The operations on the table -/

/-- R12, R13: one TABLE LOAD record, with its status. -/
def Table.loadRecord (t : Table) (record : List Byte) : Table × ResultCode :=
  match entryOfRecord record with
  | none => (t, .badValue)
  | some e =>
    let v := t.bucket (bucketOf e.key)
    if v.suspect then (t, .suspect)
    else match t.find e.key with
      | some old => if old.isHeld then (t, .held) else (t.replace e, .ok)
      | none => if v.entries.length < Config.bucketCapacity then (t.append e, .ok) else (t, .full)

/-- R14: one key of TABLE DELETE, with its status. -/
def Table.deleteKey (t : Table) (piece : List Byte) : Table × ResultCode :=
  match keyAt piece 0 with
  | none => (t, .badValue)
  | some k =>
    match t.find k with
    | none => (t, .notFound)
    | some e => if e.isHeld then (t, .held) else (t.remove k, .ok)

/-- R15: an entry revoked: VOID, or revoke-pending on a hold. -/
def Entry.revoke (e : Entry) : Entry :=
  match e.state with
  | .held h => { e with state := .held { h with revokePending := true } }
  | .outside | .inside | .outOnPassout _ | .spent | .void => { e with state := .void }

/-- R15: one key of TABLE REVOKE, with its status. -/
def Table.revokeKey (t : Table) (piece : List Byte) : Table × ResultCode :=
  match keyAt piece 0 with
  | none => (t, .badValue)
  | some k =>
    match t.find k with
    | none => (t, .notFound)
    | some e => (t.modify k Entry.revoke, if e.isHeld then .held else .ok)

/-- R16: an entry reported entered elsewhere at a clock second. -/
def Entry.enterElsewhere (time : Nat) (e : Entry) : Entry :=
  match e.state with
  | .held h => { e with state := .held { h with enteredElsewhere := true } }
  | .outside | .inside | .outOnPassout _ =>
    { e with state := .inside, lastUse := some { lane := .elsewhere, time := time } }
  | .spent => e
  | .void => e

/-- R16: the "entered elsewhere" update, with its result code. -/
def Table.enterElsewhere (t : Table) (key : Option Key) (time : Nat) : Table × ResultCode :=
  match key with
  | none => (t, .badValue)
  | some k =>
    if Config.clockMax < time then (t, .badValue)
    else match t.find k with
      | none => (t, .notFound)
      | some e =>
        match e.state with
        | .void => (t, .wrongState)
        | .spent => (t, .wrongState)
        | .held _ => (t.modify k (Entry.enterElsewhere time), .held)
        | .outside | .inside | .outOnPassout _ => (t.modify k (Entry.enterElsewhere time), .ok)

/-- R17: an entry reported passed out elsewhere with an expiry. -/
def Entry.passOutElsewhere (expiry : Nat) (e : Entry) : Entry :=
  { e with state := .outOnPassout expiry, passouts := lessOne e.passouts }

/-- R17: the "passed out elsewhere" update, with its result code. -/
def Table.passOutElsewhere (t : Table) (key : Option Key) (expiry : Nat) : Table × ResultCode :=
  match key with
  | none => (t, .badValue)
  | some k =>
    if Config.expiryMax < expiry then (t, .badValue)
    else match t.find k with
      | none => (t, .notFound)
      | some e =>
        match e.state with
        | .void => (t, .wrongState)
        | .spent => (t, .wrongState)
        | .held _ => (t, .held)
        | .outside | .inside | .outOnPassout _ => (t.modify k (Entry.passOutElsewhere expiry), .ok)

/-! ## Requests of several operations -/

/-- The list requests answer with a count and one status for each piece (R11, R14, R15). -/
def statusFields (statuses : List Byte) : List Byte := byte statuses.length :: statuses

/-- R11: OK when every status is OK, PARTIAL otherwise. -/
def loadResult (statuses : List Byte) : ResultCode :=
  if statuses.all fun b => decide (b = 0) then .ok else .partialOk

/-- TABLE LOAD's next step: the response when no record is left, else the request goes on. -/
def Wb610.continueLoad (p : Wb610) (tag : Byte) (todo : List (List Byte)) (statuses : List Byte) : Wb610 :=
  if todo.isEmpty then { p with request := none }.answer 0x20#8 tag (loadResult statuses) (statusFields statuses)
  else { p with request := some (.load tag todo statuses) }

/-- TABLE DELETE's next step. -/
def Wb610.continueDelete (p : Wb610) (tag : Byte) (todo : List (List Byte)) (statuses : List Byte) : Wb610 :=
  if todo.isEmpty then { p with request := none }.answer 0x21#8 tag .ok (statusFields statuses)
  else { p with request := some (.delete tag todo statuses) }

/-- TABLE REVOKE's next step. -/
def Wb610.continueRevoke (p : Wb610) (tag : Byte) (todo : List (List Byte)) (statuses : List Byte) : Wb610 :=
  if todo.isEmpty then { p with request := none }.answer 0x22#8 tag .ok (statusFields statuses)
  else { p with request := some (.revoke tag todo statuses) }

/-- A list request begun: its count and length checked (R11, R14, R15), its pieces laid out to be taken. -/
def Wb610.serveList (p : Wb610) (type : Byte) (maxCount size : Nat)
    (request : Byte → List (List Byte) → Request) : Wb610 :=
  p.serve (fun f => decide (f.type = type)) fun q f =>
    match countedPieces f.payload maxCount size with
    | none => q.respond f .badRequest []
    | some todo => { q with request := some (request f.tag todo) }

/-- TABLE_LOAD (R11). -/
def execTableLoad (s : State) : Host.Outcome State Fault Refusal :=
  s.act fun p => p.serveList 0x20#8 16 32 fun tag todo => .load tag todo []

/-- The next record of the TABLE LOAD in progress, as an operation of its own (R11, R13). -/
def Wb610.tableLoadRecord (p : Wb610) : Wb610 :=
  match p.request with
  | some (.load tag (record :: todo) statuses) =>
    let done := p.table.loadRecord record
    { p with table := done.1 }.continueLoad tag todo (statuses ++ [done.2.code])
  | some (.load tag [] statuses) => p.continueLoad tag [] statuses
  | some (.delete _ _ _) | some (.revoke _ _ _) | some (.counters _ _ _ _) | some (.status _ _) | none => p

/-- TABLE_LOAD_RECORD (R13). -/
def execTableLoadRecord (s : State) : Host.Outcome State Fault Refusal := s.act Wb610.tableLoadRecord

/-- TABLE_DELETE (R14). -/
def execTableDelete (s : State) : Host.Outcome State Fault Refusal :=
  s.act fun p => p.serveList 0x21#8 32 11 fun tag todo => .delete tag todo []

/-- The next key of the TABLE DELETE in progress (R14). -/
def Wb610.tableDeleteKey (p : Wb610) : Wb610 :=
  match p.request with
  | some (.delete tag (piece :: todo) statuses) =>
    let done := p.table.deleteKey piece
    { p with table := done.1 }.continueDelete tag todo (statuses ++ [done.2.code])
  | some (.delete tag [] statuses) => p.continueDelete tag [] statuses
  | some (.load _ _ _) | some (.revoke _ _ _) | some (.counters _ _ _ _) | some (.status _ _) | none => p

/-- TABLE_DELETE_KEY (R14). -/
def execTableDeleteKey (s : State) : Host.Outcome State Fault Refusal := s.act Wb610.tableDeleteKey

/-- TABLE_REVOKE (R15). -/
def execTableRevoke (s : State) : Host.Outcome State Fault Refusal :=
  s.act fun p => p.serveList 0x22#8 32 11 fun tag todo => .revoke tag todo []

/-- The next key of the TABLE REVOKE in progress (R15). -/
def Wb610.tableRevokeKey (p : Wb610) : Wb610 :=
  match p.request with
  | some (.revoke tag (piece :: todo) statuses) =>
    let done := p.table.revokeKey piece
    { p with table := done.1 }.continueRevoke tag todo (statuses ++ [done.2.code])
  | some (.revoke tag [] statuses) => p.continueRevoke tag [] statuses
  | some (.load _ _ _) | some (.delete _ _ _) | some (.counters _ _ _ _) | some (.status _ _) | none => p

/-- TABLE_REVOKE_KEY (R15). -/
def execTableRevokeKey (s : State) : Host.Outcome State Fault Refusal := s.act Wb610.tableRevokeKey

/-! ## TABLE USE UPDATE (R16, R17) -/

/-- Whether a frame is a TABLE USE UPDATE that the row of an update kind takes: one of that kind, or one that
names neither kind or has the wrong length, which either row takes (log 3). -/
def servesUpdate (kind : Nat) (f : Frame) : Bool :=
  decide (f.type = 0x23#8) &&
    (!decide (f.payload.length = 16) || decide (byteAt f.payload 11 = kind) || !inRange 1 2 (byteAt f.payload 11))

/-- TABLE USE UPDATE: the key, the update kind and the time, taken against the key's entry. -/
def Wb610.useUpdate (p : Wb610) (kind : Nat) : Wb610 :=
  p.serve (servesUpdate kind) fun q f =>
    if f.payload.length ≠ 16 then q.respond f .badRequest []
    else if byteAt f.payload 11 = 1 then
      let done := q.table.enterElsewhere (keyAt f.payload 0) (fieldAt f.payload 12 4)
      { q with table := done.1 }.respond f done.2 []
    else if byteAt f.payload 11 = 2 then
      let done := q.table.passOutElsewhere (keyAt f.payload 0) (fieldAt f.payload 12 4)
      { q with table := done.1 }.respond f done.2 []
    else q.respond f .badValue []

/-- ENTERED_ELSEWHERE (R16). -/
def execEnteredElsewhere (s : State) : Host.Outcome State Fault Refusal := s.act fun p => p.useUpdate 1

/-- PASSED_OUT_ELSEWHERE (R17). -/
def execPassedOutElsewhere (s : State) : Host.Outcome State Fault Refusal := s.act fun p => p.useUpdate 2

/-! ## Reading and clearing (R18-R21) -/

/-- R18: TABLE READ by key. -/
def Wb610.readByKey (p : Wb610) (f : Frame) : Wb610 :=
  match keyAt f.payload 0 with
  | none => p.respond f .badValue []
  | some k =>
    let v := p.table.bucket (bucketOf k)
    let fields := beBytes 2 (bucketOf k) ++ [flagByte v.suspect]
    match p.table.find k with
    | none => p.respond f .notFound fields
    | some e => p.respond f .ok (fields ++ e.record)

/-- TABLE_READ_BY_KEY (R18). -/
def execTableReadByKey (s : State) : Host.Outcome State Fault Refusal :=
  s.act fun p => p.serveFixed 0x24#8 11 Wb610.readByKey

/-- R19: TABLE READ by bucket. -/
def Wb610.readByBucket (p : Wb610) (f : Frame) : Wb610 :=
  let first := byteAt f.payload 2
  let count := byteAt f.payload 3
  match bucketNoOf (fieldAt f.payload 0 2) with
  | none => p.respond f .badValue []
  | some b =>
    if first ≤ 31 ∧ 1 ≤ count ∧ count ≤ 16 then
      let v := p.table.bucket b.val
      p.respond f .ok
        (beBytes 2 b.val ++ [byte v.entries.length, flagByte v.suspect] ++ beBytes 2 v.code.toNat
          ++ entryBytes ((v.entries.drop first).take count))
    else p.respond f .badValue []

/-- TABLE_READ_BY_BUCKET (R19). -/
def execTableReadByBucket (s : State) : Host.Outcome State Fault Refusal :=
  s.act fun p => p.serveFixed 0x25#8 4 Wb610.readByBucket

/-- R20: BUCKET CLEAR. -/
def Wb610.clearBucket (p : Wb610) (f : Frame) : Wb610 :=
  match bucketNoOf (fieldAt f.payload 0 2) with
  | none => p.respond f .badValue []
  | some b =>
    let v := p.table.bucket b.val
    if v.entries.any Entry.isHeld then p.respond f .held []
    else { p with table := p.table.setBucket b.val .empty }.respond f .ok [byte v.entries.length]

/-- BUCKET_CLEAR (R20). -/
def execBucketClear (s : State) : Host.Outcome State Fault Refusal :=
  s.act fun p => p.serveFixed 0x26#8 2 Wb610.clearBucket

/-- R21: TABLE CLEAR. -/
def Wb610.clearTable (p : Wb610) (f : Frame) : Wb610 :=
  if p.allClosed then { p with table := .empty }.respond f .ok [] else p.respond f .wrongState []

/-- TABLE_CLEAR (R21). -/
def execTableClear (s : State) : Host.Outcome State Fault Refusal :=
  s.act fun p => p.serveFixed 0x27#8 0 Wb610.clearTable

end Sys2Proof.Machine
end

