-- ==== Sys2Proof/Machine/Verdicts.lean ====
section
/-! DEFINITION. The VERDICT request (section 6.3) and the verified insert it may carry (R27, R28). -/

namespace Sys2Proof.Machine

/-! ## The verified insert -/

/-- R27: whether a record's state fits the purpose of the query: for ENTRY, OUTSIDE, or OUT_ON_PASSOUT with an
expiry after the clock value; for PASSOUT, INSIDE with passouts 1 or more. No expiry has been reached while
the clock is unset (R29). -/
def Entry.fitsPurpose (clock : Option Nat) (purpose : Purpose) (e : Entry) : Bool :=
  match purpose with
  | .entry =>
    match e.state with
    | .outside => true
    | .outOnPassout _ => !e.expired clock
    | .inside | .spent | .void | .held _ => false
  | .passout =>
    match e.state with
    | .inside => decide (1 ≤ e.passouts.val)
    | .outside | .outOnPassout _ | .spent | .void | .held _ => false

/-- The outcome of a verified insert (R27). -/
inductive InsertOutcome where
  | inserted | inUse | tableFull
  deriving DecidableEq, Repr

/-- R27, R28: a record that passed its checks, taken against the bucket of its key. -/
def Table.verifiedInsert (t : Table) (l : LaneNo) (purpose : Purpose) (e : Entry) : Table × InsertOutcome :=
  let v := t.bucket (bucketOf e.key)
  if v.suspect then (t, .tableFull)
  else match t.find e.key with
    | some _ => (t, .inUse)
    | none =>
      if v.entries.length < Config.bucketCapacity then (t.append (e.takeHold l purpose), .inserted)
      else (t, .tableFull)

/-! ## Taking a verdict -/

/-- R126: whether the form of a VERDICT is right: 3 bytes with the record-present flag clear or 35 with it
set, and a verdict of 1 (ADMIT) or 2 (REFUSE). -/
def verdictFormOk (payload : List Byte) : Bool :=
  ((decide (payload.length = 3) && decide (byteAt payload 2 = 0))
      || (decide (payload.length = 35) && decide (byteAt payload 2 = 1)))
    && inRange 1 2 (byteAt payload 1)

/-- R127: the lane and query a tag matches, if any. -/
def Wb610.matchQuery (p : Wb610) (tag : Nat) : Option (LaneNo × Query) :=
  match laneOf (tag / 16) with
  | none => none
  | some l =>
    match (p.lane l).slot with
    | none => none
    | some q => if q.tag = tag then some (l, q) else none

/-- R131: a settled verdict is answered OK with the lane and the settlement: 0 for ADMITTED, else the reason. -/
def Wb610.respondSettled (p : Wb610) (f : Frame) (l : LaneNo) (settlement : Nat) : Wb610 :=
  p.respond f .ok [byte l.val, byte settlement]

/-- R130: a matched REFUSE: the query settled, a FLAGGED hold released, the lane refuses HOST_REFUSED. -/
def Wb610.verdictRefuse (p : Wb610) (f : Frame) (l : LaneNo) : Wb610 :=
  ((((p.dropQuery l).releaseHold l).refuse l .hostRefused)).respondSettled f l Reason.hostRefused.code

/-- R128: a matched ADMIT for a FLAGGED query: the hold stands, the lane admits with VERIFIED. -/
def Wb610.verdictAdmitFlagged (p : Wb610) (f : Frame) (l : LaneNo) : Wb610 :=
  ((p.dropQuery l).admitHolder l true false).respondSettled f l 0

/-- R129, steps 1 to 3: the record of an ADMIT verdict, where it may be inserted for the query. -/
def verdictEntryOf (clock : Option Nat) (q : Query) (payload : List Byte) : Option Entry :=
  if byteAt payload 2 = 1 then
    match entryOfRecord (payload.drop 3) with
    | some e => if e.key = q.key ∧ e.fitsPurpose clock q.purpose then some e else none
    | none => none
  else none

/-- R129: a matched ADMIT for an UNKNOWN or SUSPECT query: a verdict without an insertable record for the
query's key is BAD_VALUE and the query goes on; else the outcome of the verified insert settles it. -/
def Wb610.verdictAdmitUnheld (p : Wb610) (f : Frame) (l : LaneNo) (q : Query) : Wb610 :=
  match verdictEntryOf p.clock q f.payload with
  | none => p.respond f .badValue []
  | some e =>
    let done := p.table.verifiedInsert l q.purpose e
    let p1 := { p with table := done.1 }.dropQuery l
    match done.2 with
    | .inserted => ((p1.modLane l fun x => { x with hold := some e.key }).admitHolder l true false).respondSettled f l 0
    | .inUse => (p1.refuse l .inUse).respondSettled f l Reason.inUse.code
    | .tableFull => (p1.refuse l .tableFull).respondSettled f l Reason.tableFull.code

/-- R126-R130: a verdict taken in its stages. -/
def Wb610.takeVerdict (p : Wb610) (f : Frame) : Wb610 :=
  if verdictFormOk f.payload then
    match p.matchQuery (byteAt f.payload 0) with
    | none => p.respond f .unmatched []
    | some (l, q) =>
      if byteAt f.payload 1 = 2 then p.verdictRefuse f l
      else match q.cause with
        | .flagged => p.verdictAdmitFlagged f l
        | .unknown => p.verdictAdmitUnheld f l q
        | .suspect => p.verdictAdmitUnheld f l q
  else p.respond f .badRequest []

/-- VERDICT (R126). -/
def execVerdict (s : State) : Host.Outcome State Fault Refusal :=
  s.act fun p => p.serve (fun f => decide (f.type = 0x30#8)) Wb610.takeVerdict

end Sys2Proof.Machine
end

