-- ==== Sys2Proof/Machine/Dispatch.lean ====
section
/-! DEFINITION. The dispatch of a command to its meaning: one arm per row of spec/opcode_table.json. -/

namespace Sys2Proof.Machine

def exec (i : Instr) (s : State) : Host.Outcome State Fault Refusal :=
  match i with
  | .powerOn lineA lineB contactOpen => Sys2Proof.Machine.execPowerOn lineA lineB contactOpen s
  | .receiverByte b lineError => Sys2Proof.Machine.execReceiverByte b lineError s
  | .gapTimeout => Sys2Proof.Machine.execGapTimeout s
  | .silenceTimeout => Sys2Proof.Machine.execSilenceTimeout s
  | .transmitArbiter => Sys2Proof.Machine.execTransmitArbiter s
  | .restartResponseSent => Sys2Proof.Machine.execRestartResponseSent s
  | .unknownType => Sys2Proof.Machine.execUnknownType s
  | .ping => Sys2Proof.Machine.execPing s
  | .statusRead blocks => Sys2Proof.Machine.execStatusRead s blocks
  | .gateConfigure => Sys2Proof.Machine.execGateConfigure s
  | .timeSet => Sys2Proof.Machine.execTimeSet s
  | .laneConfigure => Sys2Proof.Machine.execLaneConfigure s
  | .laneOpen => Sys2Proof.Machine.execLaneOpen s
  | .laneClose => Sys2Proof.Machine.execLaneClose s
  | .laneTestRelease => Sys2Proof.Machine.execLaneTestRelease s
  | .laneTestSignal => Sys2Proof.Machine.execLaneTestSignal s
  | .laneTestTone => Sys2Proof.Machine.execLaneTestTone s
  | .laneTestOffset => Sys2Proof.Machine.execLaneTestOffset s
  | .tableLoad => Sys2Proof.Machine.execTableLoad s
  | .tableLoadRecord => Sys2Proof.Machine.execTableLoadRecord s
  | .tableDelete => Sys2Proof.Machine.execTableDelete s
  | .tableDeleteKey => Sys2Proof.Machine.execTableDeleteKey s
  | .tableRevoke => Sys2Proof.Machine.execTableRevoke s
  | .tableRevokeKey => Sys2Proof.Machine.execTableRevokeKey s
  | .enteredElsewhere => Sys2Proof.Machine.execEnteredElsewhere s
  | .passedOutElsewhere => Sys2Proof.Machine.execPassedOutElsewhere s
  | .tableReadByKey => Sys2Proof.Machine.execTableReadByKey s
  | .tableReadByBucket => Sys2Proof.Machine.execTableReadByBucket s
  | .bucketClear => Sys2Proof.Machine.execBucketClear s
  | .tableClear => Sys2Proof.Machine.execTableClear s
  | .verdict => Sys2Proof.Machine.execVerdict s
  | .remotePresent linkLost => Sys2Proof.Machine.execRemotePresent s linkLost
  | .journalRead => Sys2Proof.Machine.execJournalRead s
  | .countersReadKeep => Sys2Proof.Machine.execCountersReadKeep s
  | .countersReadClear => Sys2Proof.Machine.execCountersReadClear s
  | .countersReadLane => Sys2Proof.Machine.execCountersReadLane s
  | .sweepNow => Sys2Proof.Machine.execSweepNow s
  | .restart => Sys2Proof.Machine.execRestart s
  | .verifyDeadlineExpiry lane => Sys2Proof.Machine.execVerifyDeadlineExpiry lane s
  | .admitWindowExpiry lane linkLost => Sys2Proof.Machine.execAdmitWindowExpiry lane s linkLost
  | .passageLimitExpiry lane linkLost => Sys2Proof.Machine.execPassageLimitExpiry lane s linkLost
  | .refusalDisplayExpiry lane linkLost => Sys2Proof.Machine.execRefusalDisplayExpiry lane s linkLost
  | .nextAgeExpiry lane => Sys2Proof.Machine.execNextAgeExpiry lane s
  | .repeatTimerExpiry lane => Sys2Proof.Machine.execRepeatTimerExpiry lane s
  | .testReleaseExpiry lane => Sys2Proof.Machine.execTestReleaseExpiry lane s
  | .rotorLineChange lane lineA lineB linkLost => Sys2Proof.Machine.execRotorLineChange lane lineA lineB s linkLost
  | .barcodeCharacter lane c framingError linkLost => Sys2Proof.Machine.execBarcodeCharacter lane c framingError s linkLost
  | .pollSent => Sys2Proof.Machine.execPollSent s
  | .busAnswer bytes linkLost => Sys2Proof.Machine.execBusAnswer bytes s linkLost
  | .pollWindowExpiry => Sys2Proof.Machine.execPollWindowExpiry s
  | .repollTimerExpiry lane => Sys2Proof.Machine.execRepollTimerExpiry lane s
  | .sweepVisit => Sys2Proof.Machine.execSweepVisit s
  | .fastPassVisit => Sys2Proof.Machine.execFastPassVisit s
  | .memoryFault bucket values code => Sys2Proof.Machine.execMemoryFault bucket values code s
  | .emergencyContactChange isOpen => Sys2Proof.Machine.execEmergencyContactChange isOpen s
  | .debounceExpiry => Sys2Proof.Machine.execDebounceExpiry s
  | .supplySample decivolts => Sys2Proof.Machine.execSupplySample decivolts s
  | .clockSecond => Sys2Proof.Machine.execClockSecond s
  | .tonePatternEnd lane => Sys2Proof.Machine.execTonePatternEnd lane s
  | .flashPhase lane => Sys2Proof.Machine.execFlashPhase lane s

end Sys2Proof.Machine
end

