-- ==== Sys2Proof/Machine/Ticks.lean ====
section
/-! DEFINITION. The passing of time (log 1): one tick of 1/512,000 s takes one from the time left of every timer that
runs. Nothing happens when a time left reaches 0 but that it stays there: that a timer has run out is a
command of the table. -/

namespace Sys2Proof.Machine

/-- A running timer one tick later. -/
def tickTimer (t : Timer) : Timer := t.map (· - 1)

/-- R70, R71, R72: the lane timer of a state one tick later. -/
def LaneState.tick : LaneState → LaneState
  | .released t => .released (t - 1)
  | .passing t => .passing (t - 1)
  | .refusing t => .refusing (t - 1)
  | .closed c => .closed c
  | .idle => .idle
  | .verifying => .verifying
  | .free b => .free b
  | .test c => .test c

/-- R115: a re-poll timer one tick later. -/
def RepollTimer.tick : RepollTimer → RepollTimer
  | .running t => .running (t - 1)
  | .stopped => .stopped
  | .runOut => .runOut

/-- The timers of one lane one tick later (R62, R64, R70-R72, R77, R115, R123, R158, R161). -/
def Lane.tick (x : Lane) : Lane :=
  { x with
    state := x.state.tick
    next := x.next.map fun w => { w with age := tickTimer w.age }
    repeatMemory := x.repeatMemory.map fun m => { m with timer := tickTimer m.timer }
    testRelease := tickTimer x.testRelease
    reader := { x.reader with repoll := x.reader.repoll.tick }
    slot := x.slot.map fun q => { q with deadline := q.deadline - 1 }
    signals :=
      { x.signals with
        flash := x.signals.flash.map fun f => { f with left := f.left - 1 }
        tone := x.signals.tone.map fun t => { t with left := t.left - 1 } } }

/-- R180: the gap timer one tick later. -/
def Receiver.tick : Receiver → Receiver
  | .hunting => .hunting
  | .receiving stored gap => .receiving stored (gap - 1)

/-- Every timer of the part one tick later (with R110, R137, R167, R172, R174, R185 for those of the gate). -/
def Wb610.tick (p : Wb610) : Wb610 :=
  { p with
    lanes := p.lanes.map Lane.tick
    poll := p.poll.map fun q => { q with window := tickTimer q.window }
    visitTimer := tickTimer p.visitTimer
    debounce := tickTimer p.debounce
    secondTimer := tickTimer p.secondTimer
    sampleTimer := p.sampleTimer - 1
    receiver := p.receiver.tick
    silence := tickTimer p.silence }

end Sys2Proof.Machine
end

