-- ==== Sys2Proof/Safety.lean ====
section
/-! DEFINITION. What counts as a safe step, and the invariants of the part: what the spec says always holds between two
events. Each is decidable on a given state. -/

namespace Sys2Proof.Machine

/-- The command runs: it ends in neither a fault nor a refusal. -/
def Runs (o : Host.Outcome State Fault Refusal) : Prop := ∃ t, o = .next t

/-- Commands taken one after the other, each on the state the one before it left. -/
def execAll : List Instr → State → Host.Outcome State Fault Refusal
  | [], s => .next s
  | c :: rest, s =>
    match exec c s with
    | .next t => execAll rest t
    | .fault e => .fault e
    | .refused r => .refused r

/-! ## How the statements speak of a step -/

/-- R183: `f` is the oldest frame waiting, `rest` those behind it, and the handler may take it. -/
abbrev State.Takes (s : State) (f : Frame) (rest : List Frame) : Prop :=
  s.part.rxBuffer = f :: rest ∧ s.part.request = none ∧ s.part.responses.length < 4 ∧ s.part.handler = .ready

/-- R184: the response to a frame: TYPE plus 0x80, the TAG unchanged, a result code and fields. -/
def Frame.reply (f : Frame) (code : Byte) (fields : List Byte) : Frame :=
  { type := f.type + 0x80#8, tag := f.tag, payload := code :: fields }

/-- The state after a request: the part as `q`, the frame gone from the buffer, one response placed. -/
def State.answered (s : State) (rest : List Frame) (q : Wb610) (r : Frame) : State :=
  { s with part := { q with rxBuffer := rest, responses := s.part.responses ++ [r] } }

/-- R162: the pattern played after a request for a tone. -/
def toneAfter (playing : Option Playing) (t : Tone) : Option Playing :=
  if playing.any (fun p => decide (p.pattern = .attention)) then playing
  else some { pattern := t, left := t.length }

/-- R49, R56, R57, R64, R72: a lane that refuses the key of CURRENT: REFUSING with the refusal display of this moment, one
refusal more, the key decided, REFUSE asked. -/
def Lane.afterRefusal (c : Settings) (k : Key) (x : Lane) : Lane :=
  { x with
    state := .refusing (51200 * c.refusalDisplay)
    counters := { x.counters with refused := if x.counters.refused < 4294967295 then x.counters.refused + 1
      else x.counters.refused }
    repeatMemory := some { key := k, timer := some (51200 * c.repeatWindow) }
    signals := { x.signals with tone := toneAfter x.signals.tone .refuse } }

/-- R56, R57, R58, R64, R92: a lane that admits the holder of CURRENT: RELEASED with the admit window of this moment, the
admission flags kept, the key decided, a forced episode ended, ACCEPT asked. -/
def Lane.afterAdmission (c : Settings) (k : Key) (verified offlineAdmit : Bool) (x : Lane) : Lane :=
  { x with
    state := .released (512000 * c.admitWindow)
    verified := verified, offlineAdmit := offlineAdmit
    rotor := { x.rotor with forced := false }
    repeatMemory := some { key := k, timer := some (51200 * c.repeatWindow) }
    signals := { x.signals with tone := toneAfter x.signals.tone .accept } }

/-- R55, R74: a lane that closes: both slots, the repeat memory, the flags and the mark cleared, a test release
and the commanded signal ended. -/
def Lane.afterClosing (cause : ClosedCause) (x : Lane) : Lane :=
  { x with
    state := .closed cause, closePending := none, verified := false, offlineAdmit := false
    current := none, next := none, repeatMemory := none, testRelease := none
    signals := { x.signals with commanded := .stop } }

/-- R54: a lane whose hold and admission flags have ended. -/
def Lane.holdEnded (x : Lane) : Lane := { x with hold := none, verified := false, offlineAdmit := false }

/-- R69: a lane that returns to IDLE with nothing to take up. -/
def Lane.backToIdle (x : Lane) : Lane := { x with state := .idle, current := none, next := none }

/-- R26: the table after the release of the hold on a key at the clock value. -/
def Wb610.released (p : Wb610) (k : Key) : Wb610 :=
  { p with table := p.table.modify k (Entry.release (p.clock.getD 0)) }

/-- R60, R61, R69, R71: the part when the lane `l`, told by `y`, leaves PASSING: closed with the close-pending
cause, or back in IDLE, where it takes up a NEXT whose age timer runs. -/
def Wb610.passageEnded (p : Wb610) (l : LaneNo) (y : Lane) (linkLost : Bool) : Wb610 :=
  match y.closePending, y.next with
  | some cause, _ => p.setLane l (y.afterClosing cause)
  | none, some { presentation := q, age := some _ } =>
    (p.setLane l { y.backToIdle with current := some q }).claim l q linkLost
  | none, some { presentation := _, age := none } => p.setLane l y.backToIdle
  | none, none => p.setLane l y.backToIdle

/-- R83: the rows of the decoding table with step +1: recorded pair (A, B), then the new pair. -/
def forwardRows : List (Bool × Bool × Bool × Bool) :=
  [(false, false, true, false), (true, false, true, true), (true, true, false, true), (false, true, false, false)]

/-- R83: the rows of the decoding table with step -1. -/
def backwardRows : List (Bool × Bool × Bool × Bool) :=
  [(false, false, false, true), (true, false, false, false), (true, true, true, false), (false, true, true, true)]

/-! ## The credential table -/

/-- R1, R2: a bucket holds at most 32 entries, each in the bucket of its key, no two with the same key. -/
abbrev Bucket.Sound (b : Nat) (v : Bucket) : Prop :=
  v.entries.length ≤ 32 ∧ (∀ e ∈ v.entries, bucketOf e.key = b) ∧ (v.entries.map (·.key)).Nodup

/-- R1, R2, R9, R136: the canonical form, every bucket sound, and the two counts. -/
abbrev Table.Sound (t : Table) : Prop :=
  bucketsWf t.buckets = true ∧ (∀ r ∈ t.buckets, r.2.Sound r.1)
    ∧ t.entryCount = (t.buckets.map fun r => r.2.entries.length).sum
    ∧ t.suspectTotal = (t.buckets.map fun r => r.2.suspect.toNat).sum

/-- R3, R4: every bucket's stored check code is the code of its contents. A memory fault alone breaks it (R5). -/
abbrev Table.CodesAgree (t : Table) : Prop := ∀ r ∈ t.buckets, r.2.code = checkCode r.2.entries

/-! ## One lane -/

/-- R98, R158, R159: the lock output and the signal shown are those of the lane state, and the signal has a flash
phase exactly when it flashes. -/
abbrev Lane.OutputsFollow (x : Lane) : Prop :=
  x.lockOn = lockFor x.config x.testRelease x.state
    ∧ x.signals.shown = signalFor x.signals.commanded x.state
    ∧ x.signals.flash.isSome = x.signals.shown.flashes

/-- The states in which CURRENT is occupied (R62): VERIFYING, RELEASED, PASSING and REFUSING. -/
def LaneState.occupied : LaneState → Bool
  | .verifying => true | .released _ => true | .passing _ => true | .refusing _ => true
  | .closed _ => false | .idle => false | .free _ => false | .test _ => false

/-- The states that can carry the close-pending mark (R75, R168): PASSING and FREE. -/
def LaneState.canDefer : LaneState → Bool
  | .passing _ => true | .free _ => true
  | .closed _ => false | .idle => false | .verifying => false | .released _ => false | .refusing _ => false
  | .test _ => false

/-- Whether a lane is in TEST. -/
def LaneState.isTest : LaneState → Bool
  | .test _ => true
  | .closed _ => false | .idle => false | .verifying => false | .released _ => false | .passing _ => false
  | .refusing _ => false | .free _ => false

/-- R54, R55, R62, R64, R75, R77, R121: what a lane carries in each state: CURRENT, NEXT behind it (none with
close-pending), the close-pending mark, the repeat memory, a test release, and the query slot with the tag of
the lane's counter and the key of CURRENT. -/
abbrev Lane.Shaped (l : LaneNo) (x : Lane) : Prop :=
  x.current.isSome = x.state.occupied
    ∧ (x.next.isSome → x.current.isSome ∧ x.closePending = none)
    ∧ (x.closePending.isSome → x.state.canDefer)
    ∧ (x.repeatMemory.isSome → x.state.isOpen)
    ∧ (x.testRelease.isSome → x.state.isTest)
    ∧ x.slot.isSome = x.state.isVerifying
    ∧ (∀ q ∈ x.slot, q.tag = 16 * l.val + x.queryCounter.val ∧ some q.key = x.current.map (·.key))

/-- R79, R82, R102, R108: the counts of a lane lie in their ranges. -/
abbrev Lane.InRange (x : Lane) : Prop :=
  (-3 ≤ x.rotor.offset ∧ x.rotor.offset ≤ 35 ∧ x.rotor.peak ≤ 35 ∧ x.rotor.faults ≤ 65535)
    ∧ (x.port.counted ≤ 24 ∧ x.port.buffer.length ≤ x.port.counted ∧ x.port.badCount ≤ 65535)
    ∧ x.reader.misses ≤ 3
    ∧ (x.counters.admitted ≤ 4294967295 ∧ x.counters.passouts ≤ 4294967295 ∧ x.counters.refused ≤ 4294967295
      ∧ x.counters.freeExits ≤ 4294967295 ∧ x.counters.unpaid ≤ 4294967295
      ∧ x.counters.emergency ≤ 4294967295)

/-! ## The gate -/

/-- R98, R159: every lane's outputs follow its state. -/
abbrev Wb610.OutputsFollow (p : Wb610) : Prop := ∀ l : LaneNo, (p.lane l).OutputsFollow

/-- Every lane is shaped as its state says. -/
abbrev Wb610.LanesShaped (p : Wb610) : Prop := ∀ l : LaneNo, (p.lane l).Shaped l

/-- R167-R171: while the debounced emergency input is asserted every lane is FREE, and no lane is FREE
otherwise; the debounce timer runs exactly while the raw state differs from the debounced state. -/
abbrev Wb610.EmergencyFollows (p : Wb610) : Prop :=
  (∀ l : LaneNo, (p.lane l).state.isFree = p.emergency) ∧ p.debounce.isSome = (p.rawEmergency != p.emergency)

/-- Whether a lane is open, or FREE and remembered as open. -/
def LaneState.inService : LaneState → Bool
  | .free .wasOpen => true
  | .idle => true | .verifying => true | .released _ => true | .passing _ => true | .refusing _ => true
  | .closed _ => false | .free (.wasClosed _) => false | .test _ => false

/-- R73, R174: a lane in service has the clock set and the supply known. -/
abbrev Wb610.ServiceReady (p : Wb610) : Prop :=
  ∀ l : LaneNo, (p.lane l).state.inService = true → p.clock.isSome = true ∧ p.supply ≠ .unknown

/-- R147, R182, R183, R187: the queues hold no more than their capacities; a request in progress has a place
kept for its response. -/
abbrev Wb610.QueuesBounded (p : Wb610) : Prop :=
  p.rxBuffer.length ≤ 2 ∧ p.responses.length + p.request.toList.length ≤ 4 ∧ p.reports.length ≤ 128
    ∧ p.journal.length ≤ 16384

/-- R147, R150: neighbouring journal records carry consecutive numbers, and the next sequence follows the
newest. -/
def journalRuns (next : Nat) : List JournalRecord → Bool
  | [] => true
  | [r] => decide (nextSequenceAfter r.sequence = next)
  | r :: r' :: rest => decide (nextSequenceAfter r.sequence = r'.sequence) && journalRuns next (r' :: rest)

/-- R147, R150: the journal's numbers run without a gap up to the next sequence, which is never 0. -/
abbrev Wb610.JournalRuns (p : Wb610) : Prop :=
  journalRuns p.nextSequence p.journal = true ∧ 1 ≤ p.nextSequence ∧ p.nextSequence ≤ 4294967295

/-- R136, R169, R172, R174, R187: the counts of the gate and of every lane lie in their ranges. -/
abbrev Wb610.InRange (p : Wb610) : Prop :=
  (∀ l : LaneNo, (p.lane l).InRange) ∧ p.tally ≤ 65535 ∧ p.dropCount ≤ 65535 ∧ p.lastSample ≤ 400
    ∧ (∀ c ∈ p.clock, c ≤ 259199)

/-- R136, R137, R143: the visit timer runs exactly outside a fast pass, and a fast pass has counted at most the
buckets it has visited. -/
abbrev Wb610.SweepPaced (p : Wb610) : Prop :=
  p.visitTimer.isSome = !p.fastPass
    ∧ (p.fastPass = true → p.fastCount ≤ (p.sweepPointer.val + 4096 - p.fastStart.val) % 4096)
    ∧ p.fastCount ≤ 4096

/-- R108, R109, R117: a poll in flight is to the reader the poll pointer names, whose lane is on the bus unless
it has left it since the poll began. -/
abbrev Wb610.PollPointed (p : Wb610) : Prop :=
  ∀ q ∈ p.poll, q.lane = p.pollPointer ∧ ((p.lane q.lane).config.cardSource = .bus ∨ q.leftBus = true)

/-- R124: each VERIFY message waiting belongs to the query in its lane's slot, and no lane has two. -/
abbrev Wb610.MessagesMatch (p : Wb610) : Prop :=
  (p.verifyQueue.map (·.lane)).Nodup
    ∧ ∀ m ∈ p.verifyQueue, ∃ q ∈ (p.lane m.lane).slot.toList,
        m.tag = q.tag ∧ m.key = q.key ∧ m.purpose = q.purpose ∧ m.cause = q.cause

/-- R183, R193: a handler that waits for START has it at the head of the report queue, and one that waits for the
RESTART response has it waiting or on the line. -/
abbrev Wb610.HandlerWaits (p : Wb610) : Prop :=
  (p.handler = .awaitingStart → ∃ r ∈ p.reports.head?.toList, r.kind = .start)
    ∧ (p.handler = .awaitingRestartResponse →
        p.responses.any Frame.isRestartResponse = true ∨ p.sending.any Frame.isRestartResponse = true)

/-- The states whose hold reference is set for certain (R54): RELEASED and PASSING. -/
def LaneState.admitted : LaneState → Bool
  | .released _ => true | .passing _ => true
  | .closed _ => false | .idle => false | .verifying => false | .refusing _ => false | .free _ => false
  | .test _ => false

/-- R10: the hold reference of a lane names a HELD entry whose holding lane is that lane. -/
abbrev Wb610.HoldStands (p : Wb610) (l : LaneNo) (k : Key) : Prop :=
  ∃ e ∈ (p.table.find k).toList, ∃ h ∈ e.state.hold.toList, h.lane = l

/-- R10, R54, R121: every HELD entry is named by its holding lane's hold reference; a lane's hold reference names
an entry it holds, the key of CURRENT; it is set in RELEASED and PASSING, in VERIFYING exactly for cause
FLAGGED, and in no other state; the admission flags stand with it in RELEASED and PASSING, never both. -/
abbrev Wb610.HoldsMatch (p : Wb610) : Prop :=
  (∀ r ∈ p.table.buckets, ∀ e ∈ r.2.entries, ∀ h ∈ e.state.hold, (p.lane h.lane).hold = some e.key)
    ∧ ∀ l : LaneNo,
      let x := p.lane l
      (∀ k ∈ x.hold, p.HoldStands l k ∧ x.current.map (·.key) = some k)
        ∧ x.hold.isSome = (x.state.admitted || x.slot.any fun q => decide (q.cause = .flagged))
        ∧ ((x.verified || x.offlineAdmit) = true → x.state.admitted = true)
        ∧ (x.verified && x.offlineAdmit) = false

/-- Everything the admission cycle rests on: the table sound, the lanes shaped, the holds matched. -/
abbrev Wb610.AdmissionsSound (p : Wb610) : Prop := p.table.Sound ∧ p.LanesShaped ∧ p.HoldsMatch

end Sys2Proof.Machine
end

