-- ==== Sys2Proof/Certificates/Slice0/Obligations.lean ====
section
/-! DEFINITION. The statements for the provers. `s` is the state a command is taken in, `s.part` the WB-610, `f` the frame a
request is read from, `l` a lane and `x` what the part keeps for it. An equation `exec c s = .next …` gives the
whole next state, so what it does not name is unchanged. -/

section
open Sys2Proof Sys2Proof.Machine

/-! ## Steps, the queue, time -/

/-- A step takes the command at the front of the queue and runs it on the state with the queue's rest. -/
def Obligations.StepTakesFrontCommand : Prop :=
  ∀ (c : Instr) (rest : List Instr) (s : State),
    s.pending = c :: rest → step s = exec c { s with pending := rest }

/-- The model's choice (log 1): on an empty queue one tick passes. The time left of every running timer falls by
one, and nothing else changes. -/
def Obligations.IdleStepCountsTimersDown : Prop :=
  ∀ s : State, s.pending = [] →
    ∃ q : Wb610, step s = .next { s with part := q }
      ∧ q.visitTimer = s.part.visitTimer.map (· - 1) ∧ q.debounce = s.part.debounce.map (· - 1)
      ∧ q.secondTimer = s.part.secondTimer.map (· - 1) ∧ q.sampleTimer = s.part.sampleTimer - 1
      ∧ q.silence = s.part.silence.map (· - 1)
      ∧ q.poll = s.part.poll.map (fun m => { m with window := m.window.map (· - 1) })
      ∧ q.receiver
        = (match s.part.receiver with | .hunting => .hunting | .receiving got gap => .receiving got (gap - 1))
      ∧ { q with
          lanes := s.part.lanes, poll := s.part.poll, visitTimer := s.part.visitTimer
          debounce := s.part.debounce, secondTimer := s.part.secondTimer
          sampleTimer := s.part.sampleTimer, silence := s.part.silence
          receiver := s.part.receiver } = s.part
      ∧ ∀ l : LaneNo,
          let x := s.part.lane l
          q.lane l
            = { x with
                state := match x.state with
                  | .released t => .released (t - 1)
                  | .passing t => .passing (t - 1)
                  | .refusing t => .refusing (t - 1)
                  | other => other
                next := x.next.map fun w => { w with age := w.age.map (· - 1) }
                repeatMemory := x.repeatMemory.map fun m => { m with timer := m.timer.map (· - 1) }
                testRelease := x.testRelease.map (· - 1)
                reader :=
                  { x.reader with
                    repoll := match x.reader.repoll with | .running t => .running (t - 1) | other => other }
                slot := x.slot.map fun m => { m with deadline := m.deadline - 1 }
                signals :=
                  { x.signals with
                    flash := x.signals.flash.map fun f => { f with left := f.left - 1 }
                    tone := x.signals.tone.map fun t => { t with left := t.left - 1 } } }

/-- Every command runs in every state: it answers a next state, and the queue stays as it was. -/
def Obligations.EveryCommandAnswersNext : Prop :=
  ∀ (c : Instr) (s : State), ∃ q : Wb610, exec c s = .next { s with part := q }

/-! ## Power-on -/

/-- What reset leaves. The rotor lines and the emergency contact are the model's choice (log 5) and are not
named here. -/
def Obligations.ResetHoldsPowerOnValues : Prop :=
  let p := State.reset.part
  State.reset.pending = []
    ∧ p.settings = ⟨8, 15, 20, 20, 6, 800, 5, 45, 32, .admitLocal⟩
    ∧ (∀ b, p.table.bucket b = { entries := [], code := 0xFFFF#16, suspect := false })
    ∧ p.table.entryCount = 0 ∧ p.table.suspectTotal = 0
    ∧ (∀ l : LaneNo,
        let x := p.lane l
        x.state = .closed .restart
          ∧ x.config
            = { direction := .entry, group := 0, cardSource := .none, barcodeOn := true, freeExit := false }
          ∧ x.closePending = none ∧ x.hold = none ∧ x.verified = false ∧ x.offlineAdmit = false
          ∧ x.current = none ∧ x.next = none ∧ x.repeatMemory = none ∧ x.testRelease = none
          ∧ x.counters
            = { admitted := 0, passouts := 0, refused := 0, freeExits := 0, unpaid := 0, emergency := 0 }
          ∧ x.lockOn = false ∧ x.rotor.offset = 0 ∧ x.rotor.peak = 0 ∧ x.rotor.faults = 0
          ∧ x.rotor.forced = false
          ∧ x.port = { buffer := [], counted := 0, lineBad := false, badCount := 0, fault := false }
          ∧ x.reader = { online := true, misses := 0, repoll := .stopped }
          ∧ x.slot = none ∧ x.queryCounter = 0
          ∧ x.signals = { shown := .stop, flash := none, commanded := .stop, tone := none })
    ∧ p.pollPointer = 9 ∧ p.poll = none ∧ p.verifyQueue = []
    ∧ p.sweepPointer = 0 ∧ p.fastPass = false ∧ p.fastStart = 0 ∧ p.fastCount = 0 ∧ p.visitTimer = some 4000
    ∧ p.journal = [] ∧ p.nextSequence = 1
    ∧ p.emergency = false ∧ p.tally = 0 ∧ p.supply = .unknown ∧ p.lastSample = 0 ∧ p.sampleTimer = 51200
    ∧ p.clock = none ∧ p.handler = .awaitingStart ∧ p.receiver = .hunting ∧ p.rxBuffer = [] ∧ p.request = none
    ∧ p.responses = [] ∧ p.dropCount = 0
    ∧ p.reports = [{ kind := .start, lane := none, time := none, reason := 1, count := 0, key := .sequence 1 }]
    ∧ p.online = false ∧ p.silence = some 2560000

/-- POWER_ON, in any state: the part as reset leaves it, but for the rotor lines, the contact, and the debounce
timer that an open contact starts. -/
def Obligations.PowerOnTakesLinesAndContact : Prop :=
  ∀ (a b : BitVec 10) (isOpen : Bool) (s : State),
    ∃ q : Wb610, exec (.powerOn a b isOpen) s = .next { s with part := q }
      ∧ q.rawEmergency = isOpen ∧ q.debounce = (if isOpen then some 25600 else none)
      ∧ { q with lanes := State.reset.part.lanes, rawEmergency := false, debounce := none } = State.reset.part
      ∧ ∀ l : LaneNo,
          (q.lane l).rotor.lineA = a.getLsbD l.val ∧ (q.lane l).rotor.lineB = b.getLsbD l.val
          ∧ { q.lane l with rotor := (State.reset.part.lane l).rotor } = State.reset.part.lane l
          ∧ (q.lane l).rotor.offset = 0 ∧ (q.lane l).rotor.peak = 0 ∧ (q.lane l).rotor.faults = 0
          ∧ (q.lane l).rotor.forced = false

/-! ## The stores that the statements below write to -/

/-- A bucket written reads back, and every other bucket reads as before; the entry count and the SUSPECT
total follow; a write of entries stores their check code and keeps the mark. An entry changed where it
stands: its key then finds the changed entry, every other key finds what it found before, and the bucket
keeps its mark and its number of entries. -/
def Obligations.TableWritesReadBack : Prop :=
  (∀ (t : Table) (b : Nat) (v : Bucket) (es : List Entry), t.Sound → b < 4096 →
     (t.setBucket b v).bucket b = v
       ∧ (∀ c, c ≠ b → (t.setBucket b v).bucket c = t.bucket c)
       ∧ (t.setBucket b v).entryCount + (t.bucket b).entries.length = t.entryCount + v.entries.length
       ∧ (t.setBucket b v).suspectTotal + (t.bucket b).suspect.toNat = t.suspectTotal + v.suspect.toNat
       ∧ bucketsWf (t.setBucket b v).buckets = true
       ∧ (t.writeEntries b es).bucket b
         = { entries := es, code := checkCode es, suspect := (t.bucket b).suspect })
    ∧ (∀ (t : Table) (k : Key) (g : Entry → Entry), t.Sound → (∀ e, (g e).key = e.key) →
       (t.modify k g).find k = (t.find k).map g
         ∧ (∀ k', k' ≠ k → (t.modify k g).find k' = t.find k')
         ∧ (∀ b, ((t.modify k g).bucket b).suspect = (t.bucket b).suspect
             ∧ ((t.modify k g).bucket b).entries.length = (t.bucket b).entries.length)
         ∧ (t.modify k g).entryCount = t.entryCount ∧ (t.modify k g).suspectTotal = t.suspectTotal)

/-- A lane written: its lock output and its signal follow its state and its settings, everything else of it is
as written, and nothing else of the part changes. A signal that stays shown keeps its flash phase, also where a lane
that shows FREE in TEST is written FREE (log 24). The lamps each signal lights, a flashing one in the lit half of its
cycle alone, and what the sounder gives `n` ticks after a pattern began, with the pattern's length. -/
def Obligations.LaneWriteSetsOutputs : Prop :=
  (∀ (p : Wb610) (l : LaneNo) (x : Lane),
    let y := (p.setLane l x).lane l
    y.lockOn
        = (match x.state with
          | .released _ => true
          | .passing _ => true
          | .free _ => true
          | .test _ => x.testRelease.isSome
          | .closed _ => false
          | .idle => decide (x.config.direction = .exit ∧ x.config.freeExit = true)
          | .verifying => decide (x.config.direction = .exit ∧ x.config.freeExit = true)
          | .refusing _ => decide (x.config.direction = .exit ∧ x.config.freeExit = true))
      ∧ y.signals.shown
        = (match x.state with
          | .idle => .ready
          | .verifying => .wait
          | .released _ => .go
          | .passing _ => .go
          | .refusing _ => .stop
          | .closed _ => .stop
          | .free _ => .free
          | .test _ => x.signals.commanded)
      ∧ y.signals.flash
        = (if y.signals.shown = x.signals.shown then x.signals.flash
          else if y.signals.shown = .wait ∨ y.signals.shown = .free then some { lit := true, left := 256000 }
          else none)
      ∧ y.signals.commanded = x.signals.commanded ∧ y.signals.tone = x.signals.tone
      ∧ { y with lockOn := x.lockOn, signals := x.signals } = x
      ∧ (∀ m : LaneNo, m ≠ l → (p.setLane l x).lane m = p.lane m)
      ∧ { p.setLane l x with lanes := p.lanes } = p)
    ∧ (∀ u : SignalUnit,
       (u.shown = .ready → u.lamps = { red := false, amber := true, green := false })
         ∧ (u.shown = .go → u.lamps = { red := false, amber := false, green := true })
         ∧ (u.shown = .stop → u.lamps = { red := true, amber := false, green := false })
         ∧ ∀ f, u.flash = some f →
             (u.shown = .wait → u.lamps = { red := false, amber := f.lit, green := false })
               ∧ (u.shown = .free → u.lamps = { red := false, amber := false, green := f.lit }))
    ∧ ∀ u : SignalUnit,
        let lasts (t : Tone) : Nat :=
          match t with | .accept => 64000 | .refuse => 256000 | .error => 204800 | .attention => 1536000
        (∀ t : Tone, t.length = lasts t) ∧ (u.tone = none → u.sounder = none)
          ∧ ∀ (t : Tone) (n : Nat), n ≤ lasts t → u.tone = some { pattern := t, left := lasts t - n } →
              u.sounder
                = match t with
                  | .accept => if n < 64000 then some (.high, .full) else none
                  | .refuse =>
                    if n < 51200 then some (.high, .full)
                    else if 102400 ≤ n ∧ n < 153600 then some (.high, .medium)
                    else if 204800 ≤ n ∧ n < 256000 then some (.high, .soft)
                    else none
                  | .error => if n < 204800 then some (.low, .full) else none
                  | .attention => if n < 1536000 ∧ n % 256000 < 128000 then some (.high, .full) else none

/-- A report carries the clock value as it stands; it joins the end of the queue while the queue holds fewer than
128, and is otherwise discarded and counted. -/
def Obligations.ReportJoinsOrIsCounted : Prop :=
  ∀ (p : Wb610) (kind : ReportKind) (lane : Option LaneNo) (reason count : Nat) (key : ReportKey),
    let r : Report :=
      { kind := kind, lane := lane, time := p.clock, reason := reason, count := count, key := key }
    p.report kind lane reason count key = p.placeReport r
      ∧ (p.reports.length < 128 → p.placeReport r = { p with reports := p.reports ++ [r] })
      ∧ (128 ≤ p.reports.length →
          p.placeReport r
            = { p with dropCount := if p.dropCount < 65535 then p.dropCount + 1 else p.dropCount })

/-! ## Taking requests -/

/-- When no request row acts, the model's choice (log 2): while no frame waits, a request is in progress (but for
STATUS READ's own, log 6), four responses wait, the handler waits for START or the RESTART response, or the
oldest frame is another row's, by its TYPE or by the action, update kind or option it names. UNKNOWN_TYPE: a
frame whose TYPE is no request's is answered TYPE 0xFF, its TAG, BAD_REQUEST and the TYPE. A request whose
payload has not the length its TYPE requires is answered BAD_REQUEST and changes nothing. Where several rows
share one TYPE, each takes such a frame (log 3). -/
def Obligations.RequestsAreTakenAndChecked : Prop :=
  ∀ (blocks : List StatusBlock) (lost : Bool),
    let types : List Byte :=
      [0x01#8, 0x02#8, 0x03#8, 0x04#8, 0x10#8, 0x11#8, 0x12#8, 0x13#8, 0x20#8, 0x21#8, 0x22#8, 0x23#8, 0x24#8,
        0x25#8, 0x26#8, 0x27#8, 0x30#8, 0x31#8, 0x40#8, 0x41#8, 0x42#8, 0x50#8]
    let fixed : List (Instr × Byte × Nat) :=
      [(.ping, 0x01#8, 0), (.statusRead blocks, 0x02#8, 0), (.gateConfigure, 0x03#8, 12), (.timeSet, 0x04#8, 4),
        (.laneConfigure, 0x10#8, 6), (.laneOpen, 0x11#8, 1), (.laneClose, 0x12#8, 1),
        (.laneTestRelease, 0x13#8, 4), (.laneTestSignal, 0x13#8, 4), (.laneTestTone, 0x13#8, 4),
        (.laneTestOffset, 0x13#8, 4), (.enteredElsewhere, 0x23#8, 16), (.passedOutElsewhere, 0x23#8, 16),
        (.tableReadByKey, 0x24#8, 11), (.tableReadByBucket, 0x25#8, 4), (.bucketClear, 0x26#8, 2),
        (.tableClear, 0x27#8, 0), (.remotePresent lost, 0x31#8, 12), (.journalRead, 0x40#8, 5),
        (.countersReadKeep, 0x41#8, 1), (.countersReadClear, 0x41#8, 1), (.sweepNow, 0x42#8, 0),
        (.restart, 0x50#8, 0)]
    let rows : List (Instr × Byte) :=
      fixed.map (fun r => (r.1, r.2.1))
        ++ [(.tableLoad, 0x20#8), (.tableDelete, 0x21#8), (.tableRevoke, 0x22#8), (.verdict, 0x30#8)]
    -- the rows that share a TYPE: the length, where the frame names the row, the row's number, how many there are
    let shared : List (Instr × Byte × Nat × Nat × Nat × Nat) :=
      [(.laneTestRelease, 0x13#8, 4, 1, 1, 4), (.laneTestSignal, 0x13#8, 4, 1, 2, 4),
        (.laneTestTone, 0x13#8, 4, 1, 3, 4), (.laneTestOffset, 0x13#8, 4, 1, 4, 4),
        (.enteredElsewhere, 0x23#8, 16, 11, 1, 2), (.passedOutElsewhere, 0x23#8, 16, 11, 2, 2),
        (.countersReadKeep, 0x41#8, 1, 0, 1, 2), (.countersReadClear, 0x41#8, 1, 0, 2, 2)]
    (∀ s : State,
       (s.part.rxBuffer = [] ∨ s.part.request.isSome ∨ 4 ≤ s.part.responses.length ∨ s.part.handler ≠ .ready) →
       (∀ tag read, s.part.request ≠ some (.status tag read)) →
         exec .unknownType s = .next s ∧ ∀ r ∈ rows, exec r.1 s = .next s)
      ∧ (∀ (s : State) tag read, s.part.request = some (.status tag read) →
         exec .unknownType s = .next s ∧ ∀ r ∈ rows, r.1 ≠ .statusRead blocks → exec r.1 s = .next s)
      ∧ (∀ (s : State) (f : Frame) (rest : List Frame), s.Takes f rest →
         (f.type ∈ types → exec .unknownType s = .next s)
           ∧ (∀ r ∈ rows, f.type ≠ r.2 → exec r.1 s = .next s)
           ∧ (∀ r ∈ shared, f.type = r.2.1 → f.payload.length = r.2.2.1 →
               ∀ b ∈ f.payload[r.2.2.2.1]?, 1 ≤ b.toNat → b.toNat ≤ r.2.2.2.2.2 → b.toNat ≠ r.2.2.2.2.1 →
                 exec r.1 s = .next s)
           ∧ (f.type ∉ types →
               exec .unknownType s
                 = .next (s.answered rest s.part { type := 0xFF#8, tag := f.tag, payload := [1, f.type] }))
           ∧ (∀ r ∈ fixed, f.type = r.2.1 → f.payload.length ≠ r.2.2 →
               exec r.1 s = .next (s.answered rest s.part (f.reply 1 []))))

/-! ## Requests to the part -/

/-- PING answers the link state, the clock, the supply state and its last sample, and the emergency, and changes
nothing. -/
def Obligations.PingAnswersTheGate : Prop :=
  ∀ (s : State) (f : Frame) (rest : List Frame), s.Takes f rest → f.type = 0x01#8 → f.payload = [] →
    exec .ping s
      = .next (s.answered rest s.part (f.reply 0
          ([if s.part.online then 1 else 2] ++ beBytes 4 (s.part.clock.getD 0xFFFFFFFF)
            ++ [byte s.part.supply.code] ++ beBytes 2 s.part.lastSample
            ++ [if s.part.emergency then 1 else 0])))

/-- STATUS READ: the 22 bytes of the gate and the 17 bytes of each lane, each part with the block it is read from.
The request takes its frame and reads the blocks of its command; the commands that follow, with any events
between, read the rest (log 6). A part read is kept as it was; the response comes once every block has been
read, at once when one command names them all. Nothing else changes. -/
def Obligations.StatusReadShowsEveryBlock : Prop :=
  let gate (p : Wb610) : List (StatusBlock × List Byte) :=
    [(.serverLine, [if p.online then 1 else 2]), (.eventClock, beBytes 4 (p.clock.getD 0xFFFFFFFF)),
      (.gateInputs, [byte p.supply.code] ++ beBytes 2 p.lastSample ++ [if p.emergency then 1 else 0]),
      (.credentialTable, beBytes 4 p.table.entryCount),
      (.tableSweep, beBytes 2 p.sweepPointer.val ++ [if p.fastPass then 1 else 0]),
      (.credentialTable, beBytes 2 p.table.suspectTotal), (.verifyUnit, [byte p.verifyQueue.length]),
      (.serverLine, [byte p.reports.length] ++ beBytes 2 p.dropCount)]
  let shown (l : LaneNo) (x : Lane) : List (StatusBlock × List Byte) :=
    [(.laneController l,
        [byte x.state.code,
          byte (match x.state with | .closed c => c.code | .test c => c.code | _ => 0),
          byte (match x.closePending with | none => 0 | some c => c.code),
          byte (match x.current, x.next with | none, _ => 0 | some _, none => 1 | some _, some _ => 2)]),
      (.rotorDecoder l, [BitVec.ofInt 8 x.rotor.offset, byte x.rotor.peak] ++ beBytes 2 x.rotor.faults),
      (.barcodePort l, [if x.port.fault then 1 else 0] ++ beBytes 2 x.port.badCount),
      (.cardReaderBus, [if x.reader.online then 1 else 2, byte x.reader.misses]),
      (.verifyUnit,
        [byte (match x.slot with | none => 0xFF | some q => q.tag),
          byte (match x.slot with | none => 0 | some q => q.cause.code)]),
      (.signalUnit l,
        [byte x.signals.shown.code, byte (match x.signals.tone with | none => 0 | some t => t.pattern.code)])]
  let parts (p : Wb610) : List (StatusBlock × List Byte) := gate p ++ laneNos.flatMap fun l => shown l (p.lane l)
  let after (s : State) (rest : List Frame) (tag : Byte) (read : List (Option (List Byte))) : State :=
    { s with
      part :=
        if none ∈ read then { s.part with rxBuffer := rest, request := some (.status tag read) }
        else
          { s.part with
            rxBuffer := rest, request := none
            responses := s.part.responses
              ++ [{ type := 0x82#8, tag := tag, payload := 0 :: (read.map fun r => r.getD []).flatten }] } }
  (∀ (s : State) (f : Frame) (rest : List Frame) (blocks : List StatusBlock), s.Takes f rest → f.type = 0x02#8 →
     f.payload = [] →
     (exec (.statusRead blocks) s
         = .next (after s rest f.tag ((parts s.part).map fun r => if r.1 ∈ blocks then some r.2 else none)))
       ∧ ((∀ r ∈ parts s.part, r.1 ∈ blocks) →
         exec (.statusRead blocks) s
           = .next (s.answered rest s.part (f.reply 0 ((parts s.part).flatMap fun r => r.2)))))
    ∧ (∀ (s : State) (tag : Byte) (read : List (Option (List Byte))) (blocks : List StatusBlock),
       s.part.request = some (.status tag read) →
       exec (.statusRead blocks) s
         = .next (after s s.part.rxBuffer tag
             (((parts s.part).zip read).map fun r =>
               match r.2 with
               | some old => some old
               | none => if r.1.1 ∈ blocks then some r.1.2 else none)))
    ∧ ∀ p : Wb610, (parts p).length = 68 ∧ ((parts p).flatMap fun r => r.2).length = 192

/-- GATE CONFIGURE: all ten settings replaced together, or BAD_VALUE with every setting as it was. TIME SET:
the clock takes the value, the next advance comes one second (512,000 ticks) later, the previous value is
answered; a value above 259,199 is BAD_VALUE. -/
def Obligations.SettingsAndClockAreSet : Prop :=
  (∀ (s : State) (f : Frame) (rest : List Frame) (b0 b1 b2 b3 b4 b5 b6 b7 b8 b9 b10 b11 : Byte),
     s.Takes f rest → f.type = 0x03#8 → f.payload = [b0, b1, b2, b3, b4, b5, b6, b7, b8, b9, b10, b11] →
     let deadline := 256 * b5.toNat + b6.toNat
     let period := 256 * b9.toNat + b10.toNat
     exec .gateConfigure s =
       if (2 ≤ b0.toNat ∧ b0.toNat ≤ 30) ∧ (5 ≤ b1.toNat ∧ b1.toNat ≤ 50) ∧ (5 ≤ b2.toNat ∧ b2.toNat ≤ 60)
           ∧ (5 ≤ b3.toNat ∧ b3.toNat ≤ 100) ∧ (2 ≤ b4.toNat ∧ b4.toNat ≤ 20)
           ∧ (200 ≤ deadline ∧ deadline ≤ 3000) ∧ (1 ≤ b7.toNat ∧ b7.toNat ≤ 60)
           ∧ (5 ≤ b8.toNat ∧ b8.toNat ≤ 240) ∧ (4 ≤ period ∧ period ≤ 256) ∧ (b11 = 1 ∨ b11 = 2) then
         .next (s.answered rest
           { s.part with
             settings :=
               { admitWindow := b0.toNat, refusalDisplay := b1.toNat, passageLimit := b2.toNat,
                 repeatWindow := b3.toNat, ageLimit := b4.toNat, verifyDeadline := deadline,
                 silenceTimeout := b7.toNat, passoutWindow := b8.toNat, sweepPeriod := period,
                 offlinePolicy := if b11 = 1 then .admitLocal else .refuse } }
           (f.reply 0 []))
       else .next (s.answered rest s.part (f.reply 2 [])))
    ∧ (∀ (s : State) (f : Frame) (rest : List Frame) (b0 b1 b2 b3 : Byte),
       s.Takes f rest → f.type = 0x04#8 → f.payload = [b0, b1, b2, b3] →
       let value := ((b0.toNat * 256 + b1.toNat) * 256 + b2.toNat) * 256 + b3.toNat
       (value ≤ 259199 →
           exec .timeSet s
             = .next (s.answered rest { s.part with clock := some value, secondTimer := some 512000 }
                 (f.reply 0 (beBytes 4 (s.part.clock.getD 0xFFFFFFFF)))))
         ∧ (259199 < value → exec .timeSet s = .next (s.answered rest s.part (f.reply 2 []))))

/-- JOURNAL READ: a payload of the wrong length is BAD_REQUEST; a start of 0 and a count of 0 or more than 32 are
BAD_VALUE; else the start sequence is located by its distance, and the read changes nothing. -/
def Obligations.JournalReadLocatesByDistance : Prop :=
  (∀ (s : State) (f : Frame) (rest : List Frame), s.Takes f rest → f.type = 0x40#8 → f.payload.length ≠ 5 →
      exec .journalRead s = .next (s.answered rest s.part (f.reply 1 [])))
    ∧ ∀ (s : State) (f : Frame) (rest : List Frame) (b0 b1 b2 b3 n : Byte),
      s.Takes f rest → f.type = 0x40#8 → f.payload = [b0, b1, b2, b3, n] →
      let start := ((b0.toNat * 256 + b1.toNat) * 256 + b2.toNat) * 256 + b3.toNat
      let next := s.part.nextSequence
      let held := s.part.journal
      let distance := if start ≤ next then next - start else next + 4294967295 - start
      let answer (code : Byte) (found : List JournalRecord) : Host.Outcome State Fault Refusal :=
        .next (s.answered rest s.part (f.reply code
          ([byte (found.take n.toNat).length]
            ++ beBytes 4 (match held.head? with | none => 0 | some r => r.sequence)
            ++ beBytes 4 (match held.getLast? with | none => 0 | some r => r.sequence)
            ++ beBytes 4 next ++ (found.take n.toNat).flatMap JournalRecord.record)))
      (start = 0 ∨ n = 0 ∨ 32 < n.toNat →
          exec .journalRead s = .next (s.answered rest s.part (f.reply 2 [])))
        ∧ (start ≠ 0 → n ≠ 0 → n.toNat ≤ 32 →
            (held = [] → exec .journalRead s = answer 0 [])
              ∧ (1 ≤ distance → distance ≤ held.length →
                  exec .journalRead s = answer 0 (held.drop (held.length - distance)))
              ∧ (held ≠ [] → distance = 0 ∨ 2147483648 ≤ distance → held.length ≤ 16384 →
                  exec .journalRead s = answer 0 [])
              ∧ (held ≠ [] → held.length < distance → distance ≤ 2147483647 →
                  exec .journalRead s = answer 12 held))

/-- COUNTERS READ: both rows begin ten lane operations in order; each takes the next lane's six counters, cleared
under clear (option 2) and kept under keep (option 1); the response comes with the tenth. An option that is
neither is answered BAD_VALUE by either row (log 3). -/
def Obligations.CountersReadLaneByLane : Prop :=
  (∀ (s : State) (f : Frame) (rest : List Frame) (n : Byte), s.Takes f rest → f.type = 0x41#8 →
      f.payload = [n] →
      (n = 1 →
          exec .countersReadKeep s
            = .next { s with
                part := { s.part with rxBuffer := rest, request := some (.counters f.tag false laneNos [1]) } })
        ∧ (n = 2 →
          exec .countersReadClear s
            = .next { s with
                part := { s.part with rxBuffer := rest, request := some (.counters f.tag true laneNos [2]) } })
        ∧ (n ≠ 1 → n ≠ 2 →
          exec .countersReadKeep s = .next (s.answered rest s.part (f.reply 2 []))
            ∧ exec .countersReadClear s = .next (s.answered rest s.part (f.reply 2 []))))
    ∧ ∀ (s : State) (tag : Byte) (clear : Bool) (l : LaneNo) (todo : List LaneNo) (values : List Byte),
        s.part.request = some (.counters tag clear (l :: todo) values) → (s.part.lane l).OutputsFollow →
        let x := s.part.lane l
        let read := values ++ beBytes 4 x.counters.admitted ++ beBytes 4 x.counters.passouts
          ++ beBytes 4 x.counters.refused ++ beBytes 4 x.counters.freeExits ++ beBytes 4 x.counters.unpaid
          ++ beBytes 4 x.counters.emergency
        let q := s.part.setLane l
          { x with counters := if clear then ⟨0, 0, 0, 0, 0, 0⟩ else x.counters }
        exec .countersReadLane s = .next { s with
          part :=
            if todo = [] then
              { q with
                request := none
                responses := s.part.responses ++ [{ type := 0xC1#8, tag := tag, payload := 0 :: read }] }
            else { q with request := some (.counters tag clear todo read) } }

/-- RESTART, taken in any state: the response is placed and the handler waits for it to be sent; every lane is
CLOSED with cause RESTART, or FREE and remembered so, its flash phase kept; holds and their flags, queries, slots,
tones and test releases end, and locks and signals are those of the state left; ports and readers are fresh; what
the spec keeps is kept; the number of holds released is told to START. The dropped commanded signal reads STOP (log
14), and of a fast pass the start stays and the count is 0 (log 17). -/
def Obligations.RestartStartsAfresh : Prop :=
  ∀ (s : State) (f : Frame) (rest : List Frame), s.Takes f rest → f.type = 0x50#8 → f.payload = [] →
    ∃ q : Wb610, exec .restart s = .next { s with part := q }
      ∧ q.rxBuffer = rest ∧ q.responses = s.part.responses ++ [f.reply 0 []]
      ∧ q.handler = .awaitingRestartResponse
      ∧ q.restartReleased = laneNos.countP (fun l => (s.part.lane l).hold.isSome)
      ∧ q.verifyQueue = [] ∧ q.fastPass = false ∧ q.fastStart = s.part.fastStart ∧ q.fastCount = 0
      ∧ q.visitTimer = some (125 * s.part.settings.sweepPeriod)
      ∧ q.sweepPointer = s.part.sweepPointer ∧ q.journal = s.part.journal
      ∧ q.nextSequence = s.part.nextSequence ∧ q.reports = s.part.reports ∧ q.dropCount = s.part.dropCount
      ∧ q.settings = s.part.settings ∧ q.clock = s.part.clock ∧ q.secondTimer = s.part.secondTimer
      ∧ q.supply = s.part.supply ∧ q.lastSample = s.part.lastSample ∧ q.sampleTimer = s.part.sampleTimer
      ∧ q.tally = s.part.tally
      ∧ q.rawEmergency = s.part.rawEmergency ∧ q.emergency = s.part.emergency
      ∧ q.debounce = s.part.debounce ∧ q.online = s.part.online ∧ q.silence = s.part.silence
      ∧ q.receiver = s.part.receiver ∧ q.sending = s.part.sending ∧ q.request = none
      ∧ q.table
        = laneNos.foldl (fun t l =>
            match (s.part.lane l).hold with
            | none => t
            | some k => t.modify k (Entry.release (s.part.clock.getD 0))) s.part.table
      ∧ q.poll
        = (laneNos.find? fun l => decide ((s.part.lane l).config.cardSource = .bus)).map
            (fun l => { lane := l, window := none, leftBus := false })
      ∧ q.pollPointer
        = (laneNos.find? fun l => decide ((s.part.lane l).config.cardSource = .bus)).getD 9
      ∧ ∀ l : LaneNo,
          let x := s.part.lane l
          let y := q.lane l
          y.state = (match x.state with | .free _ => .free (.wasClosed .restart) | _ => .closed .restart)
            ∧ y.config = x.config ∧ y.counters = x.counters ∧ y.queryCounter = x.queryCounter
            ∧ y.closePending = none ∧ y.hold = none ∧ y.verified = false ∧ y.offlineAdmit = false ∧ y.slot = none ∧ y.current = none ∧ y.next = none
            ∧ y.repeatMemory = none ∧ y.testRelease = none
            ∧ y.rotor.lineA = x.rotor.lineA ∧ y.rotor.lineB = x.rotor.lineB ∧ y.rotor.offset = 0
            ∧ y.rotor.peak = 0 ∧ y.rotor.faults = 0 ∧ y.rotor.forced = false
            ∧ y.port = { buffer := [], counted := 0, lineBad := false, badCount := 0, fault := false }
            ∧ y.reader = { online := true, misses := 0, repoll := .stopped }
            ∧ y.lockOn = (match x.state with | .free _ => true | _ => false)
            ∧ y.signals.shown = (match x.state with | .free _ => .free | _ => .stop)
            ∧ (x.OutputsFollow → y.signals.flash = (match x.state with | .free _ => x.signals.flash | _ => none))
            ∧ y.signals.tone = none ∧ y.signals.commanded = .stop

/-! ## Judging a presentation (Chapter 2) -/

/-- Steps 1 and 2, before the table is searched: the supply, then the check digit of a barcode. Steps 3 to
5: a SUSPECT bucket is not searched, an absent key is UNKNOWN; ONLINE asks the host for the purpose of the
lane's direction and takes no hold, OFFLINE refuses, whatever the policy. Steps 6 to 8, at every lane: HELD,
VOID, SPENT, and the lane group. The check digit over a list of data digits: weights 3 and 1 from the right,
10 less the sum modulo 10, modulo 10 again. The model computes it from the key's integer (log 19). -/
def Obligations.EarlyStepsOfJudgement : Prop :=
  ((∀ (view : GateView) (c : LaneConfig) (t : Table) (q : Presentation),
      (view.supply ≠ .good → judge view c t q = .refuse .lowSupply)
        ∧ (∀ d, view.supply = .good → q.source = .barcode d → d ≠ checkDigitOf q.key.bytes.toNat →
            judge view c t q = .refuse .badCode))
     ∧ (∀ (view : GateView) (c : LaneConfig) (t : Table) (q : Presentation),
        view.supply = .good → (∀ d, q.source = .barcode d → d = checkDigitOf q.key.bytes.toNat) →
        let purpose : Purpose := match c.direction with | .entry => .entry | .exit => .passout
        ((t.bucket (bucketOf q.key)).suspect = true →
            judge view c t q = if view.online then .verifyUnheld .suspect purpose else .refuse .unknownOffline)
          ∧ ((t.bucket (bucketOf q.key)).suspect = false → t.find q.key = none →
            judge view c t q = if view.online then .verifyUnheld .unknown purpose else .refuse .unknownOffline))
     ∧ (∀ (view : GateView) (c : LaneConfig) (t : Table) (q : Presentation) (e : Entry),
        view.supply = .good → (∀ d, q.source = .barcode d → d = checkDigitOf q.key.bytes.toNat) →
        (t.bucket (bucketOf q.key)).suspect = false → t.find q.key = some e →
        (∀ h, e.state = .held h → judge view c t q = .refuse .inUse)
          ∧ (e.state = .void → judge view c t q = .refuse .void)
          ∧ (e.state = .spent → judge view c t q = .refuse .spent)
          ∧ (e.state.hold = none → e.state ≠ .void → e.state ≠ .spent → e.groups.getLsbD c.group.val = false →
              judge view c t q = .refuse .wrongEntrance)))
    ∧ (∀ digits : List Nat, (∀ d ∈ digits, d ≤ 9) → digits.length ≤ 18 →
       checkDigitOf (digits.foldl (fun n d => 10 * n + d) 0)
         = (10 - ((digits.reverse.zipIdx.map fun d => d.1 * (if d.2 % 2 = 0 then 3 else 1)).sum) % 10) % 10)

/-- Steps 9, 10 and 12 at an ENTRY lane: the window by clock minute, then the state, then the verify flag, the link
and the offline policy. -/
def Obligations.EntryLaneJudgesWindowThenState : Prop :=
  ∀ (view : GateView) (c : LaneConfig) (t : Table) (q : Presentation) (e : Entry) (clock : Nat),
    view.supply = .good → (∀ d, q.source = .barcode d → d = checkDigitOf q.key.bytes.toNat) →
    (t.bucket (bucketOf q.key)).suspect = false → t.find q.key = some e →
    c.direction = .entry → view.clock = some clock → e.groups.getLsbD c.group.val = true →
    e.state.hold = none → e.state ≠ .void → e.state ≠ .spent →
    (∀ w, e.window = some w → clock / 60 < w.fromMinute → judge view c t q = .refuse .tooEarly)
      ∧ (∀ w, e.window = some w → w.fromMinute ≤ clock / 60 → w.untilMinute < clock / 60 →
          judge view c t q = .refuse .tooLate)
      ∧ ((∀ w, e.window = some w → w.fromMinute ≤ clock / 60 ∧ clock / 60 ≤ w.untilMinute) →
          (e.state = .inside → judge view c t q = .refuse .alreadyInside)
            ∧ (∀ x, e.state = .outOnPassout x → x ≤ clock → judge view c t q = .spendAndRefuse)
            ∧ ((e.state = .outside ∨ ∃ x, e.state = .outOnPassout x ∧ clock < x) →
                judge view c t q
                  = if e.verify = false then .admitHolder .entry false
                    else if view.online = true then .verifyFlagged
                    else if view.policy = .admitLocal then .admitHolder .entry true
                    else .refuse .offline))

/-- Steps 11 and 12 at an EXIT lane: INSIDE with a passout left is admitted for PASSOUT, whatever the verify flag, the
window and the link; every other state is refused. -/
def Obligations.ExitLaneJudgesStateAndPassouts : Prop :=
  ∀ (view : GateView) (c : LaneConfig) (t : Table) (q : Presentation) (e : Entry),
    view.supply = .good → (∀ d, q.source = .barcode d → d = checkDigitOf q.key.bytes.toNat) →
    (t.bucket (bucketOf q.key)).suspect = false → t.find q.key = some e →
    c.direction = .exit → e.groups.getLsbD c.group.val = true →
    (e.state = .inside → 1 ≤ e.passouts.val → judge view c t q = .admitHolder .passout false)
      ∧ (e.state = .inside → e.passouts.val = 0 → judge view c t q = .refuse .noPassoutLeft)
      ∧ (e.state = .outside → judge view c t q = .refuse .notInside)
      ∧ (∀ x, e.state = .outOnPassout x → judge view c t q = .refuse .notInside)

/-- What a lane in IDLE with CURRENT taken does with the judgement of its claim: the entry, the lane, the query, the
report and the tone of each outcome. A VERIFY outcome opens a query in the same event; where the silence timer runs
out between the claim and the opening (log 7), the link loss comes first and the query, its counter advanced, is
settled at once by its cause and the offline policy. -/
def Obligations.ClaimOutcomeMovesTheLane : Prop :=
  ∀ (p : Wb610) (l : LaneNo) (q : Presentation) (lost : Bool),
    let x := p.lane l
    let counter : Fin 16 := x.queryCounter + 1
    let message (purpose : Purpose) (cause : QueryCause) : VerifyMessage :=
      { tag := 16 * l.val + counter.val, lane := l, purpose := purpose, key := q.key, cause := cause }
    let asking (purpose : Purpose) (cause : QueryCause) (x : Lane) : Lane :=
      { x with
        state := .verifying, queryCounter := counter
        slot := some
          { tag := 16 * l.val + counter.val, key := q.key, purpose := purpose, cause := cause
            deadline := 512 * p.settings.verifyDeadline } }
    x.OutputsFollow → x.state = .idle → x.current = some q →
    (∀ r, judge p.view x.config p.table q = .refuse r →
        p.claim l q lost
          = (p.setLane l (x.afterRefusal p.settings q.key)).report .refused (some l) r.code 0 (.credential q.key))
      ∧ (judge p.view x.config p.table q = .spendAndRefuse →
        p.claim l q lost
          = ({ p with table := p.table.modify q.key (fun e => { e with state := .spent }) }.setLane l
              (x.afterRefusal p.settings q.key)).report .refused (some l) 11 0 (.credential q.key))
      ∧ (∀ purpose offline, judge p.view x.config p.table q = .admitHolder purpose offline →
        p.claim l q lost
          = { p with table := p.table.modify q.key (Entry.takeHold l purpose) }.setLane l
              ({ x with hold := some q.key }.afterAdmission p.settings q.key false offline))
      ∧ (∀ cause purpose, (lost = false ∨ p.silence = none) →
        judge p.view x.config p.table q = .verifyUnheld cause purpose →
        p.claim l q lost
          = { p with verifyQueue := p.verifyQueue ++ [message purpose cause] }.setLane l (asking purpose cause x))
      ∧ ((lost = false ∨ p.silence = none) → judge p.view x.config p.table q = .verifyFlagged →
        p.claim l q lost
          = { p with
              table := p.table.modify q.key (Entry.takeHold l .entry)
              verifyQueue := p.verifyQueue ++ [message .entry .flagged] }.setLane l
              (asking .entry .flagged { x with hold := some q.key }))
      ∧ (lost = true → p.silence ≠ none → x.slot = none →
        (∀ cause purpose, judge p.view x.config p.table q = .verifyUnheld cause purpose →
            ∃ d : Wb610, exec .silenceTimeout { pending := [], part := p } = .next { pending := [], part := d }
              ∧ p.claim l q lost
                = (d.setLane l ({ x with queryCounter := counter }.afterRefusal p.settings q.key)).report .refused
                    (some l) 16 0 (.credential q.key))
          ∧ (judge p.view x.config p.table q = .verifyFlagged →
            let y : Lane := { x with hold := some q.key, queryCounter := counter }
            ∃ d : Wb610,
              exec .silenceTimeout
                  { pending := []
                    part :=
                      { p with table := p.table.modify q.key (Entry.takeHold l .entry) }.setLane l
                        { x with hold := some q.key } }
                = .next { pending := [], part := d }
              ∧ (p.settings.offlinePolicy = .admitLocal →
                p.claim l q lost = d.setLane l (y.afterAdmission p.settings q.key false true))
              ∧ (p.settings.offlinePolicy = .refuse →
                p.claim l q lost
                  = ((d.released q.key).setLane l (y.holdEnded.afterRefusal p.settings q.key)).report .refused
                      (some l) 16 0 (.credential q.key))))

/-- What the hold cycle does to one entry: taken from OUTSIDE, INSIDE or OUT_ON_PASSOUT, committed for ENTRY or for
PASSOUT, released by its marks. -/
def Obligations.HoldCycleOfAnEntry : Prop :=
  (∀ (e : Entry) (l : LaneNo) (purpose : Purpose) (prior : Prior),
      e.state = (match prior with
        | .outside => .outside | .inside => .inside | .outOnPassout x => .outOnPassout x) →
      e.takeHold l purpose
        = { e with
            state := .held
              { lane := l, purpose := purpose, prior := prior, revokePending := false
                enteredElsewhere := false } })
    ∧ ∀ (e : Entry) (h : HoldRecord) (now window : Nat), e.state = .held h →
        (h.purpose = .entry →
            e.commit now window
              = { e with
                  state := if h.revokePending then .void else .inside
                  lastUse := some { lane := .lane h.lane, time := now } })
          ∧ (h.purpose = .passout → (e.commit now window).passouts.val = e.passouts.val - 1
              ∧ { e.commit now window with passouts := e.passouts }
                = { e with
                    state := if h.revokePending then .void else .outOnPassout (now + window)
                    lastUse := some { lane := .lane h.lane, time := now } })
          ∧ (h.revokePending = true → e.release now = { e with state := .void })
          ∧ (h.revokePending = false → h.enteredElsewhere = true →
              e.release now
                = { e with state := .inside, lastUse := some { lane := .elsewhere, time := now } })
          ∧ (h.revokePending = false → h.enteredElsewhere = false →
              e.release now
                = { e with
                    state := match h.prior with
                      | .outside => .outside | .inside => .inside | .outOnPassout x => .outOnPassout x })

/-! ## Requests to a lane (Chapters 3 and 5) -/

/-- LANE CONFIGURE: BAD_VALUE for a value outside its list or free exit at an ENTRY lane, WRONG_STATE at a
lane that is not CLOSED, else all five settings replaced, the forced episode ended, and a reader put on the
bus, which an idle bus takes up, or off it, which a poll in flight to its lane keeps as a mark (log 13). LANE
OPEN: BAD_VALUE, WRONG_STATE, NOT_READY, or the lane IDLE with its rotor at rest, the fault count cleared, the
forced episode ended and the repeat memory emptied. -/
def Obligations.LanesAreConfiguredAndOpened : Prop :=
  (∀ (s : State) (f : Frame) (rest : List Frame) (b0 b1 b2 b3 b4 b5 : Byte),
     s.Takes f rest → f.type = 0x10#8 → f.payload = [b0, b1, b2, b3, b4, b5] →
     (10 ≤ b0.toNat ∨ (b1 ≠ 1 ∧ b1 ≠ 2) ∨ 16 ≤ b2.toNat ∨ 3 ≤ b3.toNat ∨ 2 ≤ b4.toNat ∨ 2 ≤ b5.toNat
           ∨ (b1 = 1 ∧ b5 = 1) →
         exec .laneConfigure s = .next (s.answered rest s.part (f.reply 2 [])))
       ∧ ∀ (l : LaneNo) (c : LaneConfig), b0.toNat = l.val →
           b1 = (match c.direction with | .entry => 1 | .exit => 2) → b2.toNat = c.group.val →
           b3 = (match c.cardSource with | .none => 0 | .bus => 1 | .remote => 2) →
           b4 = (if c.barcodeOn then 1 else 0) → b5 = (if c.freeExit then 1 else 0) →
           ¬ (c.direction = .entry ∧ c.freeExit = true) →
           let x := s.part.lane l
           ((∀ cause, x.state ≠ .closed cause) →
               exec .laneConfigure s = .next (s.answered rest s.part (f.reply 4 [])))
             ∧ (∀ cause, x.state = .closed cause →
               exec .laneConfigure s
                 = .next (s.answered rest
                     (Wb610.chooseReader { s.part.setLane l
                       { x with
                         config := c
                         rotor := { x.rotor with forced := false }
                         reader :=
                           if c.cardSource = x.config.cardSource then x.reader
                           else if c.cardSource = .bus then { online := true, misses := 0, repoll := .stopped }
                           else if x.config.cardSource = .bus then { x.reader with repoll := .stopped }
                           else x.reader } with
                       poll := s.part.poll.map fun m =>
                         if m.lane = l ∧ x.config.cardSource = .bus ∧ c.cardSource ≠ .bus then
                           { m with leftBus := true }
                         else m })
                     (f.reply 0 []))))
    ∧ (∀ (s : State) (f : Frame) (rest : List Frame) (b : Byte),
       s.Takes f rest → f.type = 0x11#8 → f.payload = [b] →
       (10 ≤ b.toNat → exec .laneOpen s = .next (s.answered rest s.part (f.reply 2 [])))
         ∧ ∀ l : LaneNo, b.toNat = l.val →
             let x := s.part.lane l
             ((∀ cause, x.state ≠ .closed cause) →
                 exec .laneOpen s = .next (s.answered rest s.part (f.reply 4 [])))
               ∧ (∀ cause, x.state = .closed cause →
                   (s.part.clock = none ∨ s.part.supply = .unknown →
                       exec .laneOpen s = .next (s.answered rest s.part (f.reply 3 [])))
                     ∧ (s.part.clock ≠ none → s.part.supply ≠ .unknown →
                       exec .laneOpen s
                         = .next (s.answered rest
                             (s.part.setLane l
                               { x with
                                 state := .idle, current := none, next := none, repeatMemory := none
                                 rotor := { x.rotor with offset := 0, peak := 0, faults := 0, forced := false } })
                             (f.reply 0 [])))))

/-- LANE CLOSE: a CLOSED lane is left as it is; TEST ends, and the dropped commanded signal reads STOP (log 14); PASSING
and FREE defer; the other open states close at once, the query cancelled and the hold released. The lane's hold and
slot are those its state has. -/
def Obligations.LaneCloseByState : Prop :=
  ∀ (s : State) (f : Frame) (rest : List Frame) (b : Byte),
    s.Takes f rest → f.type = 0x12#8 → f.payload = [b] →
    (10 ≤ b.toNat → exec .laneClose s = .next (s.answered rest s.part (f.reply 2 [])))
      ∧ ∀ l : LaneNo, b.toNat = l.val →
          let p := s.part
          let x := p.lane l
          let closed := Lane.afterClosing .host
          x.OutputsFollow →
          (∀ cause, x.state = .closed cause →
              exec .laneClose s = .next (s.answered rest p (f.reply 0 [])))
            ∧ (∀ cause, x.state = .test cause →
              exec .laneClose s = .next (s.answered rest (p.setLane l (closed x)) (f.reply 0 [])))
            ∧ (x.slot = none → x.hold = none → (x.state = .idle ∨ ∃ t, x.state = .refusing t) →
              exec .laneClose s = .next (s.answered rest (p.setLane l (closed x)) (f.reply 0 [])))
            ∧ (∀ t k, x.state = .released t → x.slot = none → x.hold = some k →
              exec .laneClose s
                = .next (s.answered rest
                    ((p.released k).setLane l (closed x.holdEnded)) (f.reply 0 [])))
            ∧ (∀ q, x.state = .verifying → x.slot = some q → x.hold = none →
              exec .laneClose s
                = .next (s.answered rest
                    ({ p with verifyQueue := p.verifyQueue.filter fun m => m.tag ≠ q.tag }.setLane l
                      (closed { x with slot := none })) (f.reply 0 [])))
            ∧ (∀ q k, x.state = .verifying → x.slot = some q → x.hold = some k →
              exec .laneClose s
                = .next (s.answered rest
                    ({ p.released k with verifyQueue := p.verifyQueue.filter fun m => m.tag ≠ q.tag }.setLane l
                      (closed { x.holdEnded with slot := none })) (f.reply 0 [])))
            ∧ (((∃ t, x.state = .passing t) ∨ ∃ r, x.state = .free r) →
              exec .laneClose s
                = .next (s.answered rest
                    (p.setLane l
                      (if x.closePending = none then { x with closePending := some .host, next := none }
                        else x)) (f.reply 10 [])))

/-- LANE TEST, its four actions: BAD_VALUE for a lane, an action or a parameter out of range, whatever the lane's state
(log 23; any row takes an action out of range, log 3); else taken at a CLOSED lane, which enters TEST with its
cause, or at a lane in TEST; WRONG_STATE elsewhere. That OFFSET's parameter is 0 is read from the layout
(log 15). -/
def Obligations.LaneTestTakesItsAction : Prop :=
  ∀ (s : State) (f : Frame) (rest : List Frame) (b0 b1 b2 b3 : Byte),
    s.Takes f rest → f.type = 0x13#8 → f.payload = [b0, b1, b2, b3] →
    let n := 256 * b2.toNat + b3.toNat
    let signal (g : Signal) : Option (Lane → Lane) :=
      some fun x => { x with signals := { x.signals with commanded := g } }
    let tone (t : Tone) : Option (Lane → Lane) :=
      some fun x => { x with signals := { x.signals with tone := toneAfter x.signals.tone t } }
    let rows : List (Instr × Byte × Option (Lane → Lane)) :=
      [(.laneTestRelease, 1,
          if n ≤ 5000 then some fun x => { x with testRelease := if n = 0 then none else some (512 * n) }
          else none),
        (.laneTestSignal, 2,
          match n with
          | 1 => signal .ready | 2 => signal .wait | 3 => signal .go | 4 => signal .stop | 5 => signal .free
          | _ => none),
        (.laneTestTone, 3,
          match n with
          | 1 => tone .accept | 2 => tone .refuse | 3 => tone .error | 4 => tone .attention | _ => none),
        (.laneTestOffset, 4, if n = 0 then some id else none)]
    (∀ row ∈ rows, (b1 = 0 ∨ 4 < b1.toNat) → exec row.1 s = .next (s.answered rest s.part (f.reply 2 [])))
      ∧ ∀ row ∈ rows, b1 = row.2.1 →
      (10 ≤ b0.toNat ∨ row.2.2 = none → exec row.1 s = .next (s.answered rest s.part (f.reply 2 [])))
        ∧ ∀ (l : LaneNo) (act : Lane → Lane), b0.toNat = l.val → row.2.2 = some act →
            let x := s.part.lane l
            (∀ cause, x.state = .closed cause →
                exec row.1 s
                  = .next (s.answered rest
                      (s.part.setLane l
                        (act
                          { x with
                            state := .test cause, testRelease := none
                            rotor := { x.rotor with offset := 0, peak := 0, forced := false }
                            signals := { x.signals with commanded := .stop } }))
                      (f.reply 0 [0])))
              ∧ (∀ cause, x.state = .test cause →
                exec row.1 s
                  = .next (s.answered rest (s.part.setLane l (act x))
                      (f.reply 0 [BitVec.ofInt 8 x.rotor.offset])))
              ∧ ((∀ cause, x.state ≠ .closed cause ∧ x.state ≠ .test cause) →
                exec row.1 s = .next (s.answered rest s.part (f.reply 4 [])))

/-- REMOTE PRESENT: a card key with its padding zero, at a lane whose card source is REMOTE, becomes an arrival,
answered by its outcome. What an arrival from any source does, by the lane's state: discarded with or without
ERROR, a repeat, judged at once, put into NEXT, or refused NOT_READY. -/
def Obligations.ArrivalsByLaneState : Prop :=
  (∀ (s : State) (f : Frame) (rest : List Frame) (b kind : Byte) (body : List Byte)
      (lost : Bool),
      s.Takes f rest → f.type = 0x31#8 → f.payload = b :: kind :: body → body.length = 10 →
      (kind = 0 ∨ 4 < kind.toNat) →
      exec (.remotePresent lost) s = .next (s.answered rest s.part (f.reply 2 [])))
    ∧ (∀ (s : State) (f : Frame) (rest : List Frame) (b : Byte) (k : Key) (lost : Bool),
      s.Takes f rest → f.type = 0x31#8 → f.payload = b :: k.record →
      (10 ≤ b.toNat ∨ k.kind = .barcode ∨ k.paddingZero = false →
          exec (.remotePresent lost) s = .next (s.answered rest s.part (f.reply 2 [])))
        ∧ ∀ l : LaneNo, b.toNat = l.val → k.kind ≠ .barcode → k.paddingZero = true →
            ((s.part.lane l).config.cardSource ≠ .remote →
                exec (.remotePresent lost) s = .next (s.answered rest s.part (f.reply 2 [])))
              ∧ ((s.part.lane l).config.cardSource = .remote →
                let done := Wb610.arrive { s.part with rxBuffer := rest } l { key := k, source := .remote } lost
                exec (.remotePresent lost) s
                  = .next (s.answered rest done.1
                      (f.reply (match done.2 with | .taken => 13 | .repeated => 14 | .notOpen => 4) []))))
    ∧ ∀ (p : Wb610) (l : LaneNo) (q : Presentation) (lost : Bool),
        let x := p.lane l
        let repeated := x.current.map (·.key) = some q.key ∨ x.next.map (·.presentation.key) = some q.key
          ∨ ∃ t, x.repeatMemory = some { key := q.key, timer := some t }
        (((∃ c, x.state = .closed c) ∨ ∃ c, x.state = .test c) →
            p.arrive l q lost
              = (p.setLane l { x with signals := { x.signals with tone := toneAfter x.signals.tone .error } },
                  .notOpen))
          ∧ ((∃ r, x.state = .free r) → p.arrive l q lost = (p, .notOpen))
          ∧ (x.state.isOpen = true → repeated → p.arrive l q lost = (p, .repeated))
          ∧ (¬ repeated → x.state = .idle →
            p.arrive l q lost = ((p.setLane l { x with current := some q }).claim l q lost, .taken))
          ∧ (¬ repeated →
            (x.state = .verifying ∨ (∃ t, x.state = .released t) ∨ (∃ t, x.state = .refusing t)
              ∨ ((∃ t, x.state = .passing t) ∧ x.closePending = none)) →
            p.arrive l q lost
              = (p.setLane l
                  { x with next := some { presentation := q, age := some (512000 * p.settings.ageLimit) } },
                .taken))
          ∧ (¬ repeated → (∃ t, x.state = .passing t) → x.closePending ≠ none →
            p.arrive l q lost
              = ((p.setLane l
                    { x with
                      counters := (x.afterRefusal p.settings q.key).counters
                      repeatMemory := (x.afterRefusal p.settings q.key).repeatMemory }).report .refused (some l)
                  18 0 (.credential q.key), .taken))

/-! ## Lane timers (section 3.4) -/

/-- ADMIT_WINDOW_EXPIRY: a RELEASED lane releases its hold, reports ABANDONED and returns to IDLE, where it takes up a
NEXT whose age timer runs and discards one whose timer has run out. PASSAGE_LIMIT_EXPIRY: a PASSING lane releases
its hold, reports STALLED and returns to IDLE, or closes with the close-pending cause; the rotor stays. In any
other state the lane is left as it is (log 2). -/
def Obligations.AdmittedLaneTimersExpire : Prop :=
  (∀ (s : State) (l : LaneNo) (lost : Bool),
     let p := s.part
     let x := p.lane l
     (∀ t k c, x.OutputsFollow → x.state = .released t → x.hold = some k → x.current = some c →
         let told := (p.released k).report .abandoned (some l) 0 0 (.credential c.key)
         (((∀ q, x.next ≠ some q) ∨ ∃ q, x.next = some { presentation := q, age := none }) →
             exec (.admitWindowExpiry l lost) s = .next { s with part := told.setLane l x.holdEnded.backToIdle })
           ∧ (∀ q a, x.next = some { presentation := q, age := some a } →
             exec (.admitWindowExpiry l lost) s
               = .next { s with
                   part := (told.setLane l { x.holdEnded.backToIdle with current := some q }).claim l q lost }))
       ∧ ((∀ t, x.state ≠ .released t) → exec (.admitWindowExpiry l lost) s = .next s))
    ∧ (∀ (s : State) (l : LaneNo) (lost : Bool),
       let p := s.part
       let x := p.lane l
       (∀ t k c, x.OutputsFollow → x.state = .passing t → x.hold = some k → x.current = some c →
           let told := (p.released k).report .stalled (some l) 0 0 (.credential c.key)
           (∀ cause, x.closePending = some cause →
               exec (.passageLimitExpiry l lost) s
                 = .next { s with part := told.setLane l (x.holdEnded.afterClosing cause) })
             ∧ (x.closePending = none →
               ((∀ q, x.next ≠ some q) ∨ ∃ q, x.next = some { presentation := q, age := none }) →
               exec (.passageLimitExpiry l lost) s = .next { s with part := told.setLane l x.holdEnded.backToIdle })
             ∧ (∀ q a, x.closePending = none → x.next = some { presentation := q, age := some a } →
               exec (.passageLimitExpiry l lost) s
                 = .next { s with
                     part := (told.setLane l { x.holdEnded.backToIdle with current := some q }).claim l q lost }))
         ∧ ((∀ t, x.state ≠ .passing t) → exec (.passageLimitExpiry l lost) s = .next s))

/-- REFUSAL_DISPLAY_EXPIRY: a REFUSING lane returns to IDLE, where it takes up NEXT or discards it; any other lane is
left as it is (log 2). The lane's small timers: NEXT's age and the repeat timer run out with the presentation
and the key kept, a test release ends with the lock engaged, a tone pattern ends, and a flashing lamp takes the
other half of its cycle. Nothing else of the lane changes. -/
def Obligations.RefusalDisplayAndSmallTimersExpire : Prop :=
  (∀ (s : State) (l : LaneNo) (lost : Bool),
     let p := s.part
     let x := p.lane l
     (∀ t, x.OutputsFollow → x.state = .refusing t →
         (((∀ q, x.next ≠ some q) ∨ ∃ q, x.next = some { presentation := q, age := none }) →
             exec (.refusalDisplayExpiry l lost) s = .next { s with part := p.setLane l x.backToIdle })
           ∧ (∀ q a, x.next = some { presentation := q, age := some a } →
             exec (.refusalDisplayExpiry l lost) s
               = .next { s with part := (p.setLane l { x.backToIdle with current := some q }).claim l q lost }))
       ∧ ((∀ t, x.state ≠ .refusing t) → exec (.refusalDisplayExpiry l lost) s = .next s))
    ∧ (∀ (s : State) (l : LaneNo),
       let x := s.part.lane l
       (∀ q a, x.next = some { presentation := q, age := some a } →
           exec (.nextAgeExpiry l) s
             = .next { s with
                 part := s.part.setLane l { x with next := some { presentation := q, age := none } } })
         ∧ (∀ k t, x.repeatMemory = some { key := k, timer := some t } →
           exec (.repeatTimerExpiry l) s
             = .next { s with
                 part := s.part.setLane l { x with repeatMemory := some { key := k, timer := none } } })
         ∧ (∀ t, x.testRelease = some t →
           exec (.testReleaseExpiry l) s = .next { s with part := s.part.setLane l { x with testRelease := none } })
         ∧ (∀ t, x.signals.tone = some t →
           exec (.tonePatternEnd l) s
             = .next { s with part := s.part.setLane l { x with signals := { x.signals with tone := none } } })
         ∧ (∀ lit left, x.signals.flash = some { lit := lit, left := left } →
           exec (.flashPhase l) s
             = .next { s with
                 part := s.part.setLane l
                   { x with
                     signals := { x.signals with flash := some { lit := !lit, left := 256000 } } } }))

/-! ## The verify unit (Chapter 6) -/

/-- VERDICT of a wrong form is BAD_REQUEST; one whose tag no occupied slot carries is UNMATCHED; neither
changes anything. A matched REFUSE settles the query as a refusal HOST_REFUSED, whatever its cause; a
FLAGGED hold is released; the query's waiting VERIFY message goes; the response carries the lane and reason
15; an entry record that comes with it is not looked at. -/
def Obligations.VerdictUnmatchedOrRefused : Prop :=
  (∀ (s : State) (f : Frame) (rest : List Frame), s.Takes f rest → f.type = 0x30#8 →
     let formOk := ((f.payload.length = 3 ∧ f.payload[2]? = some 0)
         ∨ (f.payload.length = 35 ∧ f.payload[2]? = some 1))
       ∧ (f.payload[1]? = some 1 ∨ f.payload[1]? = some 2)
     (¬ formOk → exec .verdict s = .next (s.answered rest s.part (f.reply 1 [])))
       ∧ (formOk → ∀ tag, f.payload[0]? = some tag →
           (160 ≤ tag.toNat ∨ ∃ l : LaneNo, tag.toNat / 16 = l.val
               ∧ ∀ q, (s.part.lane l).slot = some q → q.tag ≠ tag.toNat) →
           exec .verdict s = .next (s.answered rest s.part (f.reply 9 []))))
    ∧ (∀ (s : State) (f : Frame) (rest : List Frame) (l : LaneNo) (q : Query) (c : Presentation) (tag : Byte)
         (record : List Byte),
       s.Takes f rest → f.type = 0x30#8 →
       (f.payload = [tag, 2, 0] ∨ (f.payload = tag :: 2 :: 1 :: record ∧ record.length = 32)) →
       let p := s.part
       let x := p.lane l
       x.OutputsFollow → x.state = .verifying → x.slot = some q → q.tag = tag.toNat → q.tag / 16 = l.val →
       x.current = some c →
       let waiting := p.verifyQueue.filter fun m => m.tag ≠ q.tag
       (x.hold = none →
           exec .verdict s
             = .next (s.answered rest
                 (({ p with verifyQueue := waiting }.setLane l
                   ({ x with slot := none }.afterRefusal p.settings c.key)).report .refused (some l) 15 0
                   (.credential c.key))
                 (f.reply 0 [byte l.val, 15])))
         ∧ (∀ k, x.hold = some k →
           exec .verdict s
             = .next (s.answered rest
                 (({ p.released k with verifyQueue := waiting }.setLane l
                   ({ x.holdEnded with slot := none }.afterRefusal p.settings c.key)).report .refused (some l) 15 0
                   (.credential c.key))
                 (f.reply 0 [byte l.val, 15]))))

/-- A matched ADMIT for a FLAGGED query settles it as an admission with VERIFIED; the hold and the table stand, and a
record is not looked at. -/
def Obligations.VerdictAdmitsFlagged : Prop :=
  ∀ (s : State) (f : Frame) (rest : List Frame) (l : LaneNo) (q : Query) (c : Presentation) (tag : Byte)
    (record : List Byte),
    s.Takes f rest → f.type = 0x30#8 →
    (f.payload = [tag, 1, 0] ∨ (f.payload = tag :: 1 :: 1 :: record ∧ record.length = 32)) →
    let p := s.part
    let x := p.lane l
    x.OutputsFollow → x.state = .verifying → x.slot = some q → q.tag = tag.toNat → q.tag / 16 = l.val →
    x.current = some c → q.cause = .flagged →
    exec .verdict s
      = .next (s.answered rest
          ({ p with verifyQueue := p.verifyQueue.filter fun m => m.tag ≠ q.tag }.setLane l
            ({ x with slot := none }.afterAdmission p.settings c.key true false))
          (f.reply 0 [byte l.val, 0]))

/-- A matched ADMIT for an UNKNOWN or SUSPECT query: without an insertable record of the query's key it is BAD_VALUE
and the query goes on; else the bucket decides: SUSPECT or full refuses TABLE_FULL, a key present refuses
IN_USE, and otherwise the entry joins the bucket HELD by the lane, which admits with VERIFIED. -/
def Obligations.VerdictAdmitInsertsEntry : Prop :=
  ∀ (s : State) (f : Frame) (rest : List Frame) (l : LaneNo) (q : Query) (c : Presentation) (tag : Byte)
    (record : List Byte),
    s.Takes f rest → f.type = 0x30#8 → record.length = 32 →
    let p := s.part
    let x := p.lane l
    x.OutputsFollow → x.state = .verifying → x.slot = some q → q.tag = tag.toNat → q.tag / 16 = l.val →
    x.current = some c → x.hold = none → q.cause ≠ .flagged →
    let waiting := p.verifyQueue.filter fun m => m.tag ≠ q.tag
    let prior : Entry → Option Prior := fun e =>
      match q.purpose, e.state with
      | .entry, .outside => some .outside
      | .entry, .outOnPassout x => if ∀ now ∈ p.clock, now < x then some (.outOnPassout x) else none
      | .passout, .inside => if 1 ≤ e.passouts.val then some .inside else none
      | _, _ => none
    let refused (reason : Reason) : Host.Outcome State Fault Refusal :=
      .next (s.answered rest
        (({ p with verifyQueue := waiting }.setLane l
          ({ x with slot := none }.afterRefusal p.settings c.key)).report .refused (some l) reason.code 0
          (.credential c.key))
        (f.reply 0 [byte l.val, byte reason.code]))
    (f.payload = [tag, 1, 0] → exec .verdict s = .next (s.answered rest p (f.reply 2 [])))
      ∧ (f.payload = tag :: 1 :: 1 :: record →
          ((∀ e, entryOfRecord record = some e → e.key ≠ q.key ∨ prior e = none) →
              exec .verdict s = .next (s.answered rest p (f.reply 2 [])))
            ∧ ∀ e o, entryOfRecord record = some e → e.key = q.key → prior e = some o →
                let v := p.table.bucket (bucketOf e.key)
                (v.suspect = true → exec .verdict s = refused .tableFull)
                  ∧ (v.suspect = false → (∃ e', p.table.find e.key = some e') →
                    exec .verdict s = refused .inUse)
                  ∧ (v.suspect = false → p.table.find e.key = none → 32 ≤ v.entries.length →
                    exec .verdict s = refused .tableFull)
                  ∧ (v.suspect = false → p.table.find e.key = none → v.entries.length < 32 →
                    exec .verdict s
                      = .next (s.answered rest
                          ({ p with
                              table := p.table.writeEntries (bucketOf e.key)
                                (v.entries ++
                                  [{ e with
                                      state := .held
                                        { lane := l, purpose := q.purpose, prior := o, revokePending := false
                                          enteredElsewhere := false } }])
                              verifyQueue := waiting }.setLane l
                            ({ x with slot := none, hold := some e.key }.afterAdmission p.settings c.key true
                              false))
                          (f.reply 0 [byte l.val, 0]))))

/-- VERIFY_DEADLINE_EXPIRY settles without the host: UNKNOWN and SUSPECT refuse NO_VERDICT; FLAGGED follows the
offline policy as it stands. SILENCE_TIMEOUT of an ONLINE link settles every pending query so, from lane 0
upward, behind its LINK report, and removes every waiting message. With no query pending, or no silence timer
running, the two change nothing (log 2). -/
def Obligations.QueriesSettleWithoutTheHost : Prop :=
  (∀ (s : State) (l : LaneNo),
      let p := s.part
      let x := p.lane l
      (x.slot = none → exec (.verifyDeadlineExpiry l) s = .next s)
        ∧ ∀ q c, x.OutputsFollow → x.state = .verifying → x.slot = some q → x.current = some c →
            let waiting := p.verifyQueue.filter fun m => m.tag ≠ q.tag
            (q.cause ≠ .flagged →
                exec (.verifyDeadlineExpiry l) s
                  = .next { s with
                      part := ({ p with verifyQueue := waiting }.setLane l
                        ({ x with slot := none }.afterRefusal p.settings c.key)).report .refused (some l) 16 0
                        (.credential c.key) })
              ∧ (q.cause = .flagged → p.settings.offlinePolicy = .admitLocal →
                exec (.verifyDeadlineExpiry l) s
                  = .next { s with
                      part := { p with verifyQueue := waiting }.setLane l
                        ({ x with slot := none }.afterAdmission p.settings c.key false true) })
              ∧ (∀ k, q.cause = .flagged → p.settings.offlinePolicy = .refuse → x.hold = some k →
                exec (.verifyDeadlineExpiry l) s
                  = .next { s with
                      part := ({ p.released k with verifyQueue := waiting }.setLane l
                        ({ x.holdEnded with slot := none }.afterRefusal p.settings c.key)).report .refused (some l)
                        16 0 (.credential c.key) }))
    ∧ ∀ s : State,
        let p := s.part
        (p.silence = none → exec .silenceTimeout s = .next s)
          ∧ (p.silence ≠ none → p.online = false →
            exec .silenceTimeout s = .next { s with part := { p with silence := none } })
          ∧ (p.silence ≠ none → p.online = true →
            ∃ q : Wb610,
              execAll (laneNos.map Instr.verifyDeadlineExpiry)
                  { s with
                    part := { p with silence := none, online := false }.report .link none 2 0 .none }
                = .next { s with part := q }
              ∧ exec .silenceTimeout s = .next { s with part := { q with verifyQueue := [] } })

/-! ## Requests to the table (sections 1.5 to 1.7) -/

/-- One record of TABLE LOAD: BAD_VALUE, SUSPECT, HELD, a replacement in place, FULL, or a new entry at the end of its
bucket; after the last the response carries the count and the statuses, OK when every status is OK and PARTIAL
otherwise. -/
def Obligations.TableLoadTakesEachRecord : Prop :=
  ∀ (s : State) (tag : Byte) (record : List Byte) (todo : List (List Byte)) (statuses : List Byte),
    s.part.request = some (.load tag (record :: todo) statuses) →
    let t := s.part.table
    let gives (u : Table) (code : Byte) : Prop :=
      exec .tableLoadRecord s = .next { s with
        part :=
          if todo = [] then
            { s.part with
              table := u, request := none
              responses := s.part.responses
                ++ [{ type := 0xA0#8, tag := tag
                      payload := (if ∀ c ∈ statuses ++ [code], c = 0 then 0 else 11)
                        :: byte (statuses.length + 1) :: (statuses ++ [code]) }] }
          else { s.part with table := u, request := some (.load tag todo (statuses ++ [code])) } }
    (entryOfRecord record = none → gives t 2)
      ∧ ∀ e, entryOfRecord record = some e →
          let b := bucketOf e.key
          let v := t.bucket b
          (v.suspect = true → gives t 7)
            ∧ (v.suspect = false →
              (∀ old h, t.find e.key = some old → old.state = .held h → gives t 5)
                ∧ (∀ old, t.find e.key = some old → old.state.hold = none →
                  gives (t.writeEntries b (v.entries.map fun o => if o.key = e.key then e else o)) 0)
                ∧ (t.find e.key = none → 32 ≤ v.entries.length → gives t 6)
                ∧ (t.find e.key = none → v.entries.length < 32 →
                  gives (t.writeEntries b (v.entries ++ [e])) 0))

/-- One key of TABLE DELETE and of TABLE REVOKE: BAD_VALUE, NOT_FOUND, HELD (a revoke recorded on the hold,
a deletion refused) or OK; a revoke that changes nothing recomputes no check code (log 22); after the last the
response carries the count and the statuses with result OK. TABLE LOAD, TABLE DELETE and TABLE REVOKE: a count out of
range or a length that does not fit it is BAD_REQUEST; else the records or keys are laid out, in order, to be taken
one by one. -/
def Obligations.DeleteAndRevokeTakeEachKey : Prop :=
  (∀ (s : State) (tag : Byte) (piece : List Byte) (todo : List (List Byte)) (statuses : List Byte),
     let t := s.part.table
     let gives (c : Instr) (type : Byte) (next : List Byte → Request) (u : Table) (code : Byte) : Prop :=
       exec c s = .next { s with
         part :=
           if todo = [] then
             { s.part with
               table := u, request := none
               responses := s.part.responses
                 ++ [{ type := type, tag := tag
                       payload := 0 :: byte (statuses.length + 1) :: (statuses ++ [code]) }] }
           else { s.part with table := u, request := some (next (statuses ++ [code])) } }
     (s.part.request = some (.delete tag (piece :: todo) statuses) →
         let done := gives .tableDeleteKey 0xA1#8 (fun st => .delete tag todo st)
         (keyAt piece 0 = none → done t 2)
           ∧ ∀ k, keyAt piece 0 = some k →
               (t.find k = none → done t 8)
                 ∧ (∀ e h, t.find k = some e → e.state = .held h → done t 5)
                 ∧ (∀ e, t.find k = some e → e.state.hold = none →
                   done (t.writeEntries (bucketOf k)
                     ((t.bucket (bucketOf k)).entries.filter fun o => !decide (o.key = k))) 0))
       ∧ (s.part.request = some (.revoke tag (piece :: todo) statuses) →
         let done := gives .tableRevokeKey 0xA2#8 (fun st => .revoke tag todo st)
         (keyAt piece 0 = none → done t 2)
           ∧ ∀ k, keyAt piece 0 = some k →
               (t.find k = none → done t 8)
                 ∧ ∀ e, t.find k = some e →
                   let u := t.modify k fun e =>
                     match e.state with
                     | .held h => { e with state := .held { h with revokePending := true } }
                     | _ => { e with state := .void }
                   (∀ h, e.state = .held h → done u 5) ∧ (e.state.hold = none → done u 0)))
    ∧ (∀ (s : State) (f : Frame) (rest : List Frame), s.Takes f rest →
       ∀ r ∈ ([(.tableLoad, 0x20#8, 16, 32, fun tag todo => .load tag todo []),
           (.tableDelete, 0x21#8, 32, 11, fun tag todo => .delete tag todo []),
           (.tableRevoke, 0x22#8, 32, 11, fun tag todo => .revoke tag todo [])]
           : List (Instr × Byte × Nat × Nat × (Byte → List (List Byte) → Request))),
         let most := r.2.2.1
         let size := r.2.2.2.1
         f.type = r.2.1 →
         ((f.payload = [] ∨ ∃ count body, f.payload = count :: body
               ∧ (count = 0 ∨ most < count.toNat ∨ body.length ≠ count.toNat * size)) →
             exec r.1 s = .next (s.answered rest s.part (f.reply 1 [])))
           ∧ ∀ (count : Byte) (body : List Byte), f.payload = count :: body → count ≠ 0 → count.toNat ≤ most →
               body.length = count.toNat * size →
               ∃ todo : List (List Byte), todo.length = count.toNat ∧ (∀ piece ∈ todo, piece.length = size)
                 ∧ todo.flatten = body
                 ∧ exec r.1 s
                   = .next { s with
                       part := { s.part with rxBuffer := rest, request := some (r.2.2.2.2 f.tag todo) } })

/-- TABLE USE UPDATE "entered elsewhere" and "passed out elsewhere": BAD_VALUE for a kind, a time or an update kind
out of range, else by the entry found; an update that changes no field recomputes no check code (log 22). An update
kind that is neither is taken by either row (log 3). -/
def Obligations.UseUpdatesByEntryState : Prop :=
  ∀ (s : State) (f : Frame) (rest : List Frame) (k : Key) (b0 b1 b2 b3 : Byte),
    s.Takes f rest → f.type = 0x23#8 →
    let t := s.part.table
    let value := ((b0.toNat * 256 + b1.toNat) * 256 + b2.toNat) * 256 + b3.toNat
    let answer (c : Instr) (u : Table) (code : Byte) : Prop :=
      exec c s = .next (s.answered rest { s.part with table := u } (f.reply code []))
    (f.payload = k.record ++ [1, b0, b1, b2, b3] →
        (259199 < value → answer .enteredElsewhere t 2)
          ∧ (value ≤ 259199 →
            (t.find k = none → answer .enteredElsewhere t 8)
              ∧ ∀ e, t.find k = some e →
                (e.state = .void ∨ e.state = .spent → answer .enteredElsewhere t 4)
                  ∧ (∀ h, e.state = .held h →
                    answer .enteredElsewhere
                      (t.modify k (Entry.enterElsewhere value)) 5
                      ∧ e.enterElsewhere value = { e with state := .held { h with enteredElsewhere := true } })
                  ∧ ((e.state = .outside ∨ e.state = .inside ∨ ∃ x, e.state = .outOnPassout x) →
                    answer .enteredElsewhere (t.modify k (Entry.enterElsewhere value)) 0
                      ∧ e.enterElsewhere value
                        = { e with state := .inside, lastUse := some { lane := .elsewhere, time := value } })))
      ∧ (f.payload = k.record ++ [2, b0, b1, b2, b3] →
        (273599 < value → answer .passedOutElsewhere t 2)
          ∧ (value ≤ 273599 →
            (t.find k = none → answer .passedOutElsewhere t 8)
              ∧ ∀ e, t.find k = some e →
                (e.state = .void ∨ e.state = .spent → answer .passedOutElsewhere t 4)
                  ∧ (∀ h, e.state = .held h → answer .passedOutElsewhere t 5)
                  ∧ ((e.state = .outside ∨ e.state = .inside ∨ ∃ x, e.state = .outOnPassout x) →
                    answer .passedOutElsewhere (t.modify k (Entry.passOutElsewhere value)) 0
                      ∧ (e.passOutElsewhere value).passouts.val = e.passouts.val - 1
                      ∧ { e.passOutElsewhere value with passouts := e.passouts }
                        = { e with state := .outOnPassout value })))
      ∧ ∀ (kind update : Byte) (body : List Byte), f.payload = kind :: body ++ [update, b0, b1, b2, b3] →
        body.length = 10 →
        (update = 1 → kind = 0 ∨ 4 < kind.toNat → answer .enteredElsewhere t 2)
          ∧ (update = 2 → kind = 0 ∨ 4 < kind.toNat → answer .passedOutElsewhere t 2)
          ∧ (update ≠ 1 → update ≠ 2 → answer .enteredElsewhere t 2 ∧ answer .passedOutElsewhere t 2)

/-- TABLE READ by key and by bucket show the entries as they stand and change nothing; a kind, a bucket number, a
first position or a count out of range is BAD_VALUE. -/
def Obligations.TableReadsShowEntries : Prop :=
  (∀ (s : State) (f : Frame) (rest : List Frame) (kind : Byte) (body : List Byte), s.Takes f rest →
      f.type = 0x24#8 → f.payload = kind :: body → body.length = 10 → (kind = 0 ∨ 4 < kind.toNat) →
      exec .tableReadByKey s = .next (s.answered rest s.part (f.reply 2 [])))
    ∧ (∀ (s : State) (f : Frame) (rest : List Frame) (k : Key), s.Takes f rest → f.type = 0x24#8 →
      f.payload = k.record →
      let v := s.part.table.bucket (bucketOf k)
      let fields := beBytes 2 (bucketOf k) ++ [if v.suspect then 1 else 0]
      (s.part.table.find k = none →
          exec .tableReadByKey s = .next (s.answered rest s.part (f.reply 8 fields)))
        ∧ ∀ e, s.part.table.find k = some e →
            exec .tableReadByKey s = .next (s.answered rest s.part (f.reply 0 (fields ++ e.record))))
    ∧ ∀ (s : State) (f : Frame) (rest : List Frame) (b0 b1 first count : Byte), s.Takes f rest →
        f.type = 0x25#8 → f.payload = [b0, b1, first, count] →
        let b := 256 * b0.toNat + b1.toNat
        let v := s.part.table.bucket b
        (4095 < b ∨ 31 < first.toNat ∨ count = 0 ∨ 16 < count.toNat →
            exec .tableReadByBucket s = .next (s.answered rest s.part (f.reply 2 [])))
          ∧ (b ≤ 4095 → first.toNat ≤ 31 → count ≠ 0 → count.toNat ≤ 16 →
            exec .tableReadByBucket s
              = .next (s.answered rest s.part (f.reply 0
                  ([b0, b1, byte v.entries.length, if v.suspect then 1 else 0] ++ beBytes 2 v.code.toNat
                    ++ ((v.entries.drop first.toNat).take count.toNat).flatMap Entry.record))))

/-- BUCKET CLEAR: BAD_VALUE, HELD while any entry of the bucket is HELD, or the bucket emptied, its mark lifted and
its code 0xFFFF, the entry count less by the number removed, which the response carries. TABLE CLEAR: taken
when all ten lanes are CLOSED; every bucket is then empty with code 0xFFFF and no mark, the entry count 0. With
holds matched to lanes, no entry is HELD then. -/
def Obligations.ClearingRequestsEmptyBuckets : Prop :=
  (∀ (s : State) (f : Frame) (rest : List Frame) (b0 b1 : Byte), s.Takes f rest → f.type = 0x26#8 →
     f.payload = [b0, b1] →
     let b := 256 * b0.toNat + b1.toNat
     let v := s.part.table.bucket b
     (4095 < b → exec .bucketClear s = .next (s.answered rest s.part (f.reply 2 [])))
       ∧ (b ≤ 4095 →
         ((∃ e ∈ v.entries, ∃ h, e.state = .held h) →
             exec .bucketClear s = .next (s.answered rest s.part (f.reply 5 [])))
           ∧ ((∀ e ∈ v.entries, e.state.hold = none) →
             exec .bucketClear s
               = .next (s.answered rest
                   { s.part with
                     table := s.part.table.setBucket b
                       { entries := [], code := 0xFFFF#16, suspect := false } }
                   (f.reply 0 [byte v.entries.length]))
               ∧ (s.part.table.Sound →
                 (s.part.table.setBucket b
                     { entries := [], code := 0xFFFF#16, suspect := false }).entryCount + v.entries.length
                   = s.part.table.entryCount))))
    ∧ (∀ (s : State) (f : Frame) (rest : List Frame), s.Takes f rest → f.type = 0x27#8 → f.payload = [] →
       ((∀ l : LaneNo, ∃ c, (s.part.lane l).state = .closed c) →
           exec .tableClear s
             = .next (s.answered rest
                 { s.part with table := { buckets := [], entryCount := 0, suspectTotal := 0 } } (f.reply 0 []))
             ∧ (∀ b, ({ buckets := [], entryCount := 0, suspectTotal := 0 } : Table).bucket b
                 = { entries := [], code := 0xFFFF#16, suspect := false })
             ∧ (s.part.AdmissionsSound → ∀ b, ∀ e ∈ (s.part.table.bucket b).entries, e.state.hold = none))
         ∧ ((∃ l : LaneNo, ∀ c, (s.part.lane l).state ≠ .closed c) →
           exec .tableClear s = .next (s.answered rest s.part (f.reply 4 []))))

/-- An entry record has 32 bytes, with every field where the layout puts it, those of a HELD entry's hold included, and a
record that meets R12 reads back as the entry it was written from. Which 32-byte records are refused: exactly those
that fail a check of R12. -/
def Obligations.EntryRecordsReadBack : Prop :=
  (∀ e : Entry,
      e.record.length = 32
        ∧ e.record.take 11 = e.key.record ∧ fieldAt e.record 11 1 = e.cls.val
        ∧ fieldAt e.record 12 2 = e.groups.toNat
        ∧ (e.window = none → fieldAt e.record 14 2 = 0xFFFF ∧ fieldAt e.record 16 2 = 0xFFFF)
        ∧ (∀ w, e.window = some w → w.fromMinute < 65536 → w.untilMinute < 65536 →
          fieldAt e.record 14 2 = w.fromMinute ∧ fieldAt e.record 16 2 = w.untilMinute)
        ∧ fieldAt e.record 18 1 = e.passouts.val
        ∧ (match e.state with
          | .held h =>
            fieldAt e.record 19 1 = e.verify.toNat + 2 * h.revokePending.toNat + 4 * h.enteredElsewhere.toNat
              ∧ fieldAt e.record 20 1 = 6 ∧ fieldAt e.record 21 1 = h.lane.val
              ∧ fieldAt e.record 22 1
                = 16 * (match h.purpose with | .entry => 1 | .passout => 2)
                  + (match h.prior with | .outside => 1 | .inside => 2 | .outOnPassout _ => 3)
              ∧ (match h.prior with
                | .outOnPassout x => x < 4294967296 → fieldAt e.record 23 4 = x
                | _ => fieldAt e.record 23 4 = 0xFFFFFFFF)
          | free =>
            fieldAt e.record 19 1 = e.verify.toNat ∧ fieldAt e.record 21 1 = 0xFF ∧ fieldAt e.record 22 1 = 0
              ∧ (match free with
                | .outside => fieldAt e.record 20 1 = 1 ∧ fieldAt e.record 23 4 = 0xFFFFFFFF
                | .inside => fieldAt e.record 20 1 = 2 ∧ fieldAt e.record 23 4 = 0xFFFFFFFF
                | .outOnPassout x => fieldAt e.record 20 1 = 3 ∧ (x < 4294967296 → fieldAt e.record 23 4 = x)
                | .spent => fieldAt e.record 20 1 = 4 ∧ fieldAt e.record 23 4 = 0xFFFFFFFF
                | .void => fieldAt e.record 20 1 = 5 ∧ fieldAt e.record 23 4 = 0xFFFFFFFF
                | .held _ => False))
        ∧ (e.lastUse = none → fieldAt e.record 27 1 = 0xFF ∧ fieldAt e.record 28 4 = 0xFFFFFFFF)
        ∧ (∀ u, e.lastUse = some u → u.time < 4294967296 →
          fieldAt e.record 27 1 = (match u.lane with | .lane l => l.val | .elsewhere => 15)
            ∧ fieldAt e.record 28 4 = u.time)
        ∧ (e.key.paddingZero = true → e.state.hold = none →
          (∀ w ∈ e.window, w.fromMinute ≤ w.untilMinute ∧ w.untilMinute ≤ 4319) →
          (∀ x ∈ e.state.expiry, x ≤ 273599) → (∀ u ∈ e.lastUse, u.time ≤ 259199) →
          entryOfRecord e.record = some e))
    ∧ (∀ r : List Byte, r.length = 32 →
       let kind := byteAt r 0
       let minuteFrom := fieldAt r 14 2
       let minuteUntil := fieldAt r 16 2
       let expiry := fieldAt r 23 4
       let useLane := byteAt r 27
       let useTime := fieldAt r 28 4
       (entryOfRecord r = none ↔
         (kind < 1 ∨ 4 < kind)
           ∨ (kind = 1 ∧ (byteAt r 1 ≠ 0 ∨ byteAt r 2 ≠ 0))
           ∨ (kind = 2 ∧ ∃ i, 5 ≤ i ∧ i ≤ 10 ∧ byteAt r i ≠ 0)
           ∨ (kind = 3 ∧ ∃ i, 8 ≤ i ∧ i ≤ 10 ∧ byteAt r i ≠ 0)
           ∨ 15 < byteAt r 11
           ∨ (¬ (minuteFrom = 0xFFFF ∧ minuteUntil = 0xFFFF)
               ∧ (4319 < minuteFrom ∨ 4319 < minuteUntil ∨ minuteUntil < minuteFrom))
           ∨ 15 < byteAt r 18
           ∨ (byteAt r 20 = 6 ∨ byteAt r 20 < 1 ∨ 6 < byteAt r 20)
           ∨ (expiry ≠ 0xFFFFFFFF ∧ byteAt r 20 ≠ 3)
           ∨ (expiry = 0xFFFFFFFF ∧ byteAt r 20 = 3)
           ∨ (expiry ≠ 0xFFFFFFFF ∧ 273599 < expiry)
           ∨ (byteAt r 21 ≠ 0xFF ∨ byteAt r 22 ≠ 0 ∨ (byteAt r 19).testBit 1 = true
               ∨ (byteAt r 19).testBit 2 = true)
           ∨ (useLane ≠ 0xFF ∧ useTime = 0xFFFFFFFF)
           ∨ (useLane = 0xFF ∧ useTime ≠ 0xFFFFFFFF)
           ∨ (useLane ≠ 0xFF ∧ 9 < useLane ∧ useLane ≠ 15)
           ∨ (useTime ≠ 0xFFFFFFFF ∧ 259199 < useTime)))

/-! ## The rotor (Chapter 4) -/

/-- A change of the lines that brings back the recorded pair changes nothing; one line changed is a step by the
decoding table, and a step that reaches no threshold of its lane state moves the offset alone: the peak follows
it forward, and a forced episode ends at 0 or below. -/
def Obligations.RotorStepsMoveTheOffset : Prop :=
  ∀ (s : State) (l : LaneNo) (a b lost : Bool),
    let p := s.part
    let x := p.lane l
    let r := x.rotor
    let forward : Wb610 :=
      p.setLane l
        { x with
          rotor :=
            { r with
              lineA := a, lineB := b, offset := r.offset + 1
              peak := if (r.peak : Int) < r.offset + 1 then (r.offset + 1).toNat else r.peak } }
    (r.lineA = a → r.lineB = b → exec (.rotorLineChange l a b lost) s = .next s)
      ∧ ((r.lineA, r.lineB, a, b) ∈ forwardRows → r.offset + 1 < 6 →
          exec (.rotorLineChange l a b lost) s = .next { s with part := forward })
      ∧ ((r.lineA, r.lineB, a, b) ∈ forwardRows → r.offset + 1 ≠ 36 →
          ((∃ t, x.state = .passing t) ∨ (∃ t, x.state = .free t) ∨ (∃ t, x.state = .test t)
            ∨ (x.state.isUnadmitted = true ∧ (x.config.direction = .exit ∨ r.forced = true))) →
          exec (.rotorLineChange l a b lost) s = .next { s with part := forward })
      ∧ ((r.lineA, r.lineB, a, b) ∈ backwardRows → r.offset - 1 ≠ -4 →
          exec (.rotorLineChange l a b lost) s
            = .next { s with
                part := p.setLane l
                  { x with
                    rotor :=
                      { r with
                        lineA := a, lineB := b, offset := r.offset - 1
                        forced := if r.offset - 1 ≤ 0 then false else r.forced } } })

/-- Passage start and passage complete: a RELEASED lane enters PASSING at the first step forward that leaves the
offset at 6 or more; at 36 the hold is committed, its journal record appended, its passage counted, and the lane
leaves PASSING; a RELEASED lane that carried an offset of 35 does both in one step. -/
def Obligations.PassageStartsAndCommits : Prop :=
  ∀ (s : State) (l : LaneNo) (a b lost : Bool),
    let p := s.part
    let x := p.lane l
    let r := x.rotor
    (r.lineA, r.lineB, a, b) ∈ forwardRows → x.OutputsFollow →
    (∀ t, x.state = .released t → 6 ≤ r.offset + 1 → r.offset + 1 ≠ 36 →
        exec (.rotorLineChange l a b lost) s
          = .next { s with
              part := p.setLane l
                { x with
                  state := .passing (512000 * p.settings.passageLimit)
                  rotor :=
                    { r with
                      lineA := a, lineB := b, offset := r.offset + 1, forced := false
                      peak := if (r.peak : Int) < r.offset + 1 then (r.offset + 1).toNat else r.peak } } })
      ∧ ∀ k e h now,
          ((∃ t, x.state = .passing t) ∨ ∃ t, x.state = .released t) → r.offset + 1 = 36 →
          x.hold = some k → p.table.find k = some e → e.state = .held h → p.clock = some now →
          let record : JournalRecord :=
            { sequence := p.nextSequence, time := now, lane := l, purpose := h.purpose, key := k, cls := e.cls
              revoked := h.revokePending, double := h.enteredElsewhere, verified := x.verified
              offlineAdmit := x.offlineAdmit }
          let more (n : Nat) : Nat := if n < 4294967295 then n + 1 else n
          exec (.rotorLineChange l a b lost) s
            = .next { s with
                part :=
                  Wb610.passageEnded
                    { p with
                      table := p.table.modify k (Entry.commit now (60 * p.settings.passoutWindow))
                      journal := (if p.journal.length < 16384 then p.journal else p.journal.drop 1) ++ [record]
                      nextSequence := if p.nextSequence = 4294967295 then 1 else p.nextSequence + 1 }
                    l
                    { x.holdEnded with
                      rotor :=
                        { r with
                          lineA := a, lineB := b, offset := 0, peak := 0
                          forced := match x.state with | .released _ => false | _ => r.forced }
                      counters :=
                        match h.purpose with
                        | .entry => { x.counters with admitted := more x.counters.admitted }
                        | .passout => { x.counters with passouts := more x.counters.passouts } }
                    lost }

/-- A step that leaves the offset at -4: in RELEASED a BACKTURN report and ATTENTION, in PASSING with them the hold
released and the passage ended, in every other state a new rest position and nothing else. -/
def Obligations.BackturnsByLaneState : Prop :=
  ∀ (s : State) (l : LaneNo) (a b lost : Bool),
    let p := s.part
    let x := p.lane l
    let r := x.rotor
    let rested : Lane :=
      { x with rotor := { r with lineA := a, lineB := b, offset := 0, peak := 0, forced := false } }
    let warned : Lane :=
      { rested with signals := { x.signals with tone := toneAfter x.signals.tone .attention } }
    (r.lineA, r.lineB, a, b) ∈ backwardRows → r.offset - 1 = -4 → x.OutputsFollow →
    (∀ t c, x.state = .released t → x.current = some c →
        exec (.rotorLineChange l a b lost) s
          = .next { s with
              part := (p.setLane l warned).report .backturn (some l) 0 r.peak (.credential c.key) })
      ∧ (∀ t k c, x.state = .passing t → x.hold = some k → x.current = some c →
        exec (.rotorLineChange l a b lost) s
          = .next { s with
              part :=
                ((p.released k).report .backturn (some l) 0 r.peak (.credential c.key)).passageEnded l
                  warned.holdEnded lost })
      ∧ ((∀ t, x.state ≠ .released t ∧ x.state ≠ .passing t) →
        exec (.rotorLineChange l a b lost) s = .next { s with part := p.setLane l rested })

/-- Movement forward that nobody was let in for: at an ENTRY lane a forced episode at 6 and an unpaid passage at 36, at
an EXIT lane a free exit at 36, in FREE an emergency passage, in TEST nothing but the new rest position. -/
def Obligations.ForwardMovementWithoutAHold : Prop :=
  ∀ (s : State) (l : LaneNo) (a b lost : Bool),
    let p := s.part
    let x := p.lane l
    let r := x.rotor
    let more (n : Nat) : Nat := if n < 4294967295 then n + 1 else n
    let round (forced : Bool) : Rotor :=
      { r with lineA := a, lineB := b, offset := 0, peak := 0, forced := forced }
    let warned : SignalUnit := { x.signals with tone := toneAfter x.signals.tone .attention }
    (r.lineA, r.lineB, a, b) ∈ forwardRows →
    (x.state.isUnadmitted = true → x.config.direction = .entry →
        (6 ≤ r.offset + 1 → r.offset + 1 ≠ 36 → r.forced = false →
            exec (.rotorLineChange l a b lost) s
              = .next { s with
                  part :=
                    (p.setLane l
                      { x with
                        rotor :=
                          { r with
                            lineA := a, lineB := b, offset := r.offset + 1, forced := true
                            peak := if (r.peak : Int) < r.offset + 1 then (r.offset + 1).toNat else r.peak }
                        signals := warned }).report .forced (some l) 0 0 .none })
          ∧ (r.offset + 1 = 36 →
            let passed : Wb610 :=
              p.setLane l
                { x with
                  rotor := round false, signals := warned
                  counters := { x.counters with unpaid := more x.counters.unpaid } }
            exec (.rotorLineChange l a b lost) s
              = .next { s with
                  part :=
                    (if r.forced then passed else passed.report .forced (some l) 0 0 .none).report .unpaid
                      (some l) 0 0 .none }))
      ∧ (x.state.isUnadmitted = true → x.config.direction = .exit → r.offset + 1 = 36 →
        exec (.rotorLineChange l a b lost) s
          = .next { s with
              part := p.setLane l
                { x with
                  rotor := round r.forced
                  counters := { x.counters with freeExits := more x.counters.freeExits } } })
      ∧ (∀ back, x.state = .free back → r.offset + 1 = 36 →
        exec (.rotorLineChange l a b lost) s
          = .next { s with
              part :=
                { p with tally := if p.tally < 65535 then p.tally + 1 else p.tally }.setLane l
                  { x with
                    rotor := round r.forced
                    counters := { x.counters with emergency := more x.counters.emergency } } })
      ∧ (∀ cause, x.state = .test cause → r.offset + 1 = 36 →
        exec (.rotorLineChange l a b lost) s = .next { s with part := p.setLane l { x with rotor := round r.forced } })

/-- An encoder fault, both lines changed: the pair follows the lines; outside TEST the fault is counted and reported,
and the eighth closes an open lane with cause FAULT, or marks a FREE lane that is remembered as open. -/
def Obligations.EncoderFaultsByLaneState : Prop :=
  ∀ (s : State) (l : LaneNo) (a b lost : Bool),
    let p := s.part
    let x := p.lane l
    let r := x.rotor
    let count := if r.faults < 65535 then r.faults + 1 else r.faults
    let told : Wb610 := p.report .rotorFault (some l) 0 count .none
    let y : Lane := { x with rotor := { r with lineA := a, lineB := b, faults := count } }
    r.lineA ≠ a → r.lineB ≠ b → x.OutputsFollow →
    (∀ cause, x.state = .test cause →
        exec (.rotorLineChange l a b lost) s
          = .next { s with
              part := p.setLane l { x with rotor := { r with lineA := a, lineB := b } } })
      ∧ ((∀ cause, x.state ≠ .test cause) →
        (count ≠ 8 ∨ (∃ c, x.state = .closed c) ∨ (∃ c, x.state = .free (.wasClosed c)) →
            exec (.rotorLineChange l a b lost) s = .next { s with part := told.setLane l y })
          ∧ (count = 8 → x.state = .free .wasOpen →
            exec (.rotorLineChange l a b lost) s
              = .next { s with
                  part :=
                    (told.setLane l { y with closePending := some .fault }).report .laneFault (some l) 0 8 .none })
          ∧ (count = 8 → x.state.isOpen = true →
            let settled : Wb610 := match x.hold with | none => told | some k => told.released k
            let quiet : Wb610 :=
              match x.slot with
              | none => settled
              | some q => { settled with verifyQueue := settled.verifyQueue.filter fun m => m.tag ≠ q.tag }
            exec (.rotorLineChange l a b lost) s
              = .next { s with
                  part :=
                    (quiet.setLane l ({ y with hold := none, slot := none }.afterClosing .fault)).report
                      .laneFault (some l) 0 8 .none }))

/-! ## Barcode ports and the card reader bus (Chapter 5) -/

/-- A character that does not end the line is ignored, stored, counted or discarded as the table of R103 says, the
characters counted being kept apart from those stored (log 16); a carriage return classifies the line:
discarded with barcode OFF, an arrival and a sound port when good, counted and heard when bad. -/
def Obligations.BarcodeLinesAreClassified : Prop :=
  ∀ (s : State) (l : LaneNo) (c : Byte) (framingError lost : Bool),
    let p := s.part
    let x := p.lane l
    let b := x.port
    x.OutputsFollow →
    ((c ≠ 13 ∨ framingError = true) →
        let taken (b' : Port) : Prop :=
          exec (.barcodeCharacter l c framingError lost) s
            = .next { s with part := p.setLane l { x with port := b' } }
        (c = 10 → exec (.barcodeCharacter l c framingError lost) s = .next s)
          ∧ (c ≠ 10 → 24 ≤ b.counted → taken { b with lineBad := true })
          ∧ (c ≠ 10 → b.counted < 24 → framingError = true →
            taken { b with counted := b.counted + 1, lineBad := true })
          ∧ (c ≠ 10 → b.counted < 24 → framingError = false → 48 ≤ c.toNat → c.toNat ≤ 57 →
            taken { b with buffer := b.buffer ++ [c], counted := b.counted + 1 })
          ∧ (c ≠ 10 → b.counted < 24 → framingError = false → (c.toNat < 48 ∨ 57 < c.toNat) →
            taken { b with buffer := b.buffer ++ [c], counted := b.counted + 1, lineBad := true }))
      ∧ (c = 13 → framingError = false →
        let ended : Port := { b with buffer := [], counted := 0, lineBad := false }
        let cleared : Wb610 := p.setLane l { x with port := ended }
        let good := b.lineBad = false ∧ 8 ≤ b.buffer.length ∧ b.buffer.length ≤ 19
        (x.config.barcodeOn = false →
            exec (.barcodeCharacter l c framingError lost) s = .next { s with part := cleared })
          ∧ (x.config.barcodeOn = true → good →
            let value (digits : List Byte) : Nat := digits.foldl (fun n d => 10 * n + (d.toNat - 48)) 0
            let handed : Wb610 :=
              (cleared.arrive l
                { key := { kind := .barcode, bytes := (BitVec.ofNat 64 (value b.buffer.dropLast)).setWidth 80 }
                  source := .barcode (value (b.buffer.drop (b.buffer.length - 1))) } lost).1
            let told : Wb610 :=
              if b.fault then handed.report .barcodeOk (some l) 0 b.badCount .none else handed
            exec (.barcodeCharacter l c framingError lost) s
              = .next { s with
                  part := told.setLane l
                    { handed.lane l with port := { ended with fault := false, badCount := 0 } } })
          ∧ (x.config.barcodeOn = true → ¬ good →
            let count := if b.badCount < 65535 then b.badCount + 1 else b.badCount
            let heard : Wb610 :=
              p.setLane l
                { x with
                  port :=
                    { ended with
                      badCount := count
                      fault := if count = 10 then true else b.fault }
                  signals :=
                    if x.state.isOpen = true then
                      { x.signals with tone := toneAfter x.signals.tone .error }
                    else x.signals }
            exec (.barcodeCharacter l c framingError lost) s
              = .next { s with
                  part :=
                    if count = 10 ∧ b.fault = false then heard.report .barcodeFault (some l) 0 10 .none
                    else heard }))

/-- The bus arbiter, with no poll in flight: the first due reader after the poll pointer, else the first ONLINE reader
on the bus, 9 being followed by 0; with neither the bus stays idle. -/
def Obligations.BusArbiterChooses : Prop :=
  ∀ p : Wb610,
    let due (l : LaneNo) : Prop :=
      (p.lane l).config.cardSource = .bus ∧ (p.lane l).reader.online = false
        ∧ (p.lane l).reader.repoll = .runOut
    let onBus (l : LaneNo) : Prop :=
      (p.lane l).config.cardSource = .bus ∧ (p.lane l).reader.online = true
    let steps (l : LaneNo) : Nat := (l.val + 9 - p.pollPointer.val) % 10
    let polls (l : LaneNo) : Prop :=
      p.chooseReader = { p with pollPointer := l, poll := some { lane := l, window := none, leftBus := false } }
    (p.poll ≠ none → p.chooseReader = p)
      ∧ (p.poll = none →
        (∀ l, due l → (∀ m, due m → steps l ≤ steps m) → polls l)
          ∧ ((∀ m, ¬ due m) → ∀ l, onBus l → (∀ m, onBus m → steps l ≤ steps m) → polls l)
          ∧ ((∀ m, ¬ due m) → (∀ m, ¬ onBus m) → p.chooseReader = p))

/-- POLL_SENT opens the window of 10 ms; POLL_WINDOW_EXPIRY is a miss: one more for an ONLINE reader, OFFLINE with its
report at the third, the re-poll timer again for an OFFLINE one; REPOLL_TIMER_EXPIRY makes a reader due. After
each end of a poll the arbiter chooses. The re-poll timer of a reader off the bus stays stopped (log 12). With
no POLL going out, no window open or no timer running the three change nothing (log 2). -/
def Obligations.PollsAndMisses : Prop :=
  ∀ (s : State) (l : LaneNo) (left : Bool),
    let p := s.part
    let x := p.lane l
    let free : Wb610 := { p with poll := none }
    let repoll : RepollTimer := if x.config.cardSource = .bus then .running 512000 else .stopped
    (p.poll = some { lane := l, window := none, leftBus := left } →
        exec .pollSent s
            = .next { s with part := { p with poll := some { lane := l, window := some 5120, leftBus := left } } }
          ∧ exec .pollWindowExpiry s = .next s)
      ∧ (∀ w, p.poll = some { lane := l, window := some w, leftBus := left } →
        exec .pollSent s = .next s
          ∧ (x.reader.online = true → x.reader.misses < 2 →
            exec .pollWindowExpiry s
              = .next { s with
                  part :=
                    (free.setLane l
                      { x with reader := { x.reader with misses := x.reader.misses + 1 } }).chooseReader })
          ∧ (x.reader.online = true → 2 ≤ x.reader.misses →
            exec .pollWindowExpiry s
              = .next { s with
                  part :=
                    ((free.setLane l
                      { x with reader := { online := false, misses := 3, repoll := repoll } }).report
                        .readerOffline (some l) 0 3 .none).chooseReader })
          ∧ (x.reader.online = false →
            exec .pollWindowExpiry s
              = .next { s with
                  part :=
                    (free.setLane l { x with reader := { x.reader with repoll := repoll } }).chooseReader }))
      ∧ (p.poll = none → exec .pollSent s = .next s ∧ exec .pollWindowExpiry s = .next s)
      ∧ (∀ t, x.reader.repoll = .running t →
        exec (.repollTimerExpiry l) s
          = .next { s with
              part := (p.setLane l { x with reader := { x.reader with repoll := .runOut } }).chooseReader })
      ∧ ((x.reader.repoll = .stopped ∨ x.reader.repoll = .runOut) →
        exec (.repollTimerExpiry l) s = .next s)

/-- BUS_ANSWER while the window is open: bytes up to a start byte are discarded; too few bytes change nothing yet; a
length above 10, a wrong check, another address, or a kind and length that do not agree end the poll as a miss; a
good answer clears the misses, brings an OFFLINE reader back with its report, and is taken by its kind, a CARD
being discarded when the lane has left the bus since the poll began, a mark the poll keeps (log 13). With no
window open nothing changes. The bytes of one answer come as one command (log 11). -/
def Obligations.BusAnswersAreTaken : Prop :=
  ∀ (s : State) (junk : List Byte) (address kind length : Byte) (data : List Byte) (check : Byte)
    (more : List Byte) (lost : Bool),
    let p := s.part
    ((∀ l w left, p.poll ≠ some { lane := l, window := some w, leftBus := left }) →
        ∀ bytes, exec (.busAnswer bytes lost) s = .next s)
      ∧ ∀ l w left, p.poll = some { lane := l, window := some w, leftBus := left } → 0xC3#8 ∉ junk →
          let x := p.lane l
          let start := junk ++ [0xC3#8, address, kind, length]
          let bytes := start ++ data ++ check :: more
          let sound := check = (address :: kind :: length :: data).foldl (· ^^^ ·) 0x55#8 ∧ address.toNat = l.val
          let agrees := (kind = 0 ∧ length = 0) ∨ (kind = 1 ∧ (length = 4 ∨ length = 7 ∨ length = 10))
            ∨ (kind = 2 ∧ length = 1)
          let back : Wb610 := p.setLane l { x with reader := { online := true, misses := 0, repoll := .stopped } }
          let heard : Wb610 := if x.reader.online then back else back.report .readerOnline (some l) 0 0 .none
          let ends (q : Wb610) : Prop :=
            exec (.busAnswer bytes lost) s = .next { s with part := { q with poll := none }.chooseReader }
          (exec (.busAnswer junk lost) s = .next s)
            ∧ (length.toNat ≤ 10 → data.length ≤ length.toNat →
              exec (.busAnswer (start ++ data) lost) s = .next s)
            ∧ (10 < length.toNat →
              exec (.busAnswer (start ++ data) lost) s = exec .pollWindowExpiry s)
            ∧ (length.toNat ≤ 10 → data.length = length.toNat → ¬ (sound ∧ agrees) →
              exec (.busAnswer bytes lost) s = exec .pollWindowExpiry s)
            ∧ (data.length = length.toNat → sound → agrees →
              (kind = 0 → ends heard)
                ∧ (kind = 2 → ∀ code : Byte, data = [code] →
                  ends (heard.report .readerFault (some l) code.toNat 0 .none))
                ∧ (kind = 1 →
                  let key : Key :=
                    { kind := if length = 4 then .card4 else if length = 7 then .card7 else .card10
                      bytes := BitVec.ofNat 80 (beNat (data ++ List.replicate (10 - data.length) 0)) }
                  ends (if left then heard else (heard.arrive l { key := key, source := .bus } lost).1)))

/-! ## The table sweep (Chapter 7) and the memory fault (R5) -/

/-- A visit: the comparison first, with the mark and its report, then the conversion of the passouts that have run
out, each with its report, the code recomputed once; the pointer moves on, and in normal pacing the visit timer
starts again. While a fast pass runs the visit timer is stopped and SWEEP_VISIT changes nothing (log 2). -/
def Obligations.VisitComparesThenConverts : Prop :=
  ∀ s : State,
    let p := s.part
    let b := p.sweepPointer.val
    let v := p.table.bucket b
    let compared : Wb610 :=
      if v.code ≠ checkCode v.entries ∧ v.suspect = false then
        { p with table := p.table.setBucket b { v with suspect := true } }.report .bucketSuspect none 0 b .none
      else p
    let ranOut (e : Entry) : Bool :=
      match e.state, p.clock with
      | .outOnPassout x, some now => decide (x ≤ now)
      | _, _ => false
    let gone := v.entries.filter ranOut
    let converted : Wb610 :=
      if gone = [] then compared
      else
        gone.foldl (fun q e => q.report .passoutExpired none 0 b (.credential e.key))
          { compared with
            table := compared.table.writeEntries b
              (v.entries.map fun e => if ranOut e then { e with state := .spent } else e) }
    p.table.Sound →
    p.visit = { converted with sweepPointer := ⟨(b + 1) % 4096, Nat.mod_lt _ (by decide)⟩ }
      ∧ (∀ t, p.visitTimer = some t →
        exec .sweepVisit s
          = .next { s with part := { p.visit with visitTimer := some (125 * p.settings.sweepPeriod) } })
      ∧ (p.visitTimer = none → exec .sweepVisit s = .next s)

/-- SWEEP NOW begins a fast pass, or is WRONG_STATE during one; each of its visits counts the bucket it leaves SUSPECT;
the visit that brings the pointer back to its start ends it with SWEEP_DONE and normal pacing, the start and the count
staying as they stood (log 17). Outside a fast pass FAST_PASS_VISIT changes nothing (log 2). -/
def Obligations.FastPassVisitsEveryBucket : Prop :=
  (∀ (s : State) (f : Frame) (rest : List Frame), s.Takes f rest → f.type = 0x42#8 → f.payload = [] →
      (s.part.fastPass = false →
          exec .sweepNow s
            = .next (s.answered rest
                { s.part with
                  fastPass := true, fastStart := s.part.sweepPointer, fastCount := 0, visitTimer := none }
                (f.reply 0 [])))
        ∧ (s.part.fastPass = true → exec .sweepNow s = .next (s.answered rest s.part (f.reply 4 []))))
    ∧ ∀ s : State,
        let p := s.part
        let q := p.visit
        let count := p.fastCount + (if (q.table.bucket p.sweepPointer.val).suspect then 1 else 0)
        (p.fastPass = false → exec .fastPassVisit s = .next s)
          ∧ (p.fastPass = true → (p.sweepPointer.val + 1) % 4096 ≠ p.fastStart.val →
            exec .fastPassVisit s = .next { s with part := { q with fastCount := count } })
          ∧ (p.fastPass = true → (p.sweepPointer.val + 1) % 4096 = p.fastStart.val →
            exec .fastPassVisit s
              = .next { s with
                  part :=
                    { q with
                      fastCount := count, fastPass := false
                      visitTimer := some (125 * p.settings.sweepPeriod) }.report .sweepDone none 0 count .none })

/-- MEMORY_FAULT writes the named fields of one bucket's entries and its stored code, and nothing else; no code is
recomputed. Values out of their ranges are none a fault leaves, and change nothing (log 10). -/
def Obligations.MemoryFaultDisturbsOneBucket : Prop :=
  ∀ (s : State) (b : Fin 4096) (values : List Disturbance) (code : Word16),
    let v := s.part.table.bucket b.val
    let within := ∀ d ∈ values,
      (∀ w ∈ d.window, w.fromMinute ≤ w.untilMinute ∧ w.untilMinute ≤ 4319)
        ∧ (∀ u ∈ d.lastUse, u.time ≤ 259199) ∧ d.expiry ≤ 273599
    (within →
        exec (.memoryFault b values code) s
          = .next { s with
              part :=
                { s.part with
                  table := s.part.table.setBucket b.val
                    { entries :=
                        v.entries.mapIdx fun i e =>
                          match values[i]? with
                          | none => e
                          | some d =>
                            { e with
                              cls := d.cls, groups := d.groups, window := d.window, verify := d.verify
                              lastUse := d.lastUse
                              state :=
                                match e.state with
                                | .outOnPassout _ => .outOnPassout d.expiry
                                | .held h =>
                                  .held
                                    { h with
                                      prior := match h.prior with
                                        | .outOnPassout _ => .outOnPassout d.expiry
                                        | other => other }
                                | other => other }
                      code := code, suspect := v.suspect } } })
      ∧ (¬ within → exec (.memoryFault b values code) s = .next s)

/-! ## Gate-wide conditions (Chapter 10) -/

/-- EMERGENCY_CONTACT_CHANGE starts or stops the debounce timer of 50 ms; DEBOUNCE_EXPIRY makes the raw state the
debounced one: an assertion frees every lane, ends every hold and query, clears the tally and reports how many
holds were released; a deassertion brings every lane back as it was remembered and reports the tally. A change
to the contact's own state, and an expiry of a timer that is not running, change nothing (log 2). A commanded
signal that is dropped reads STOP (log 14), and a lane that showed FREE already keeps its flash phase (log 24). -/
def Obligations.EmergencyFreesAndReturns : Prop :=
  ∀ s : State,
    let p := s.part
    (∀ isOpen,
        exec (.emergencyContactChange isOpen) s
          = .next { s with
              part :=
                if isOpen = p.rawEmergency then p
                else
                  { p with
                    rawEmergency := isOpen
                    debounce := if isOpen = p.emergency then none else some 25600 } })
      ∧ (p.debounce = none → exec .debounceExpiry s = .next s)
      ∧ (p.debounce ≠ none → p.rawEmergency = p.emergency →
        exec .debounceExpiry s = .next { s with part := { p with debounce := none } })
      ∧ (p.debounce ≠ none → p.rawEmergency = true → p.emergency = false → p.OutputsFollow →
        ∃ q : Wb610, exec .debounceExpiry s = .next { s with part := q }
          ∧ (∀ l : LaneNo,
            let x := p.lane l
            q.lane l
              = (p.setLane l
                  { x with
                    state := .free (match x.state with
                      | .closed c => .wasClosed c
                      | .test _ => .wasClosed .host
                      | .free back => back
                      | _ => .wasOpen)
                    hold := none, verified := false, offlineAdmit := false, slot := none, current := none
                    next := none, repeatMemory := none, testRelease := none
                    rotor := { x.rotor with forced := false }
                    signals := { x.signals with commanded := .stop, tone := none } }).lane l)
          ∧ (let told := ({ p with tally := 0 } : Wb610).report .emergencyStart none 0
                (laneNos.countP fun l => (p.lane l).hold.isSome) .none
            { q with
                lanes := told.lanes, table := told.table, verifyQueue := told.verifyQueue, emergency := false
                debounce := told.debounce } = told)
          ∧ q.emergency = true ∧ q.debounce = none
          ∧ q.table
            = laneNos.foldl (fun t l =>
                match (p.lane l).hold with
                | none => t
                | some k => t.modify k (Entry.release (p.clock.getD 0))) p.table
          ∧ q.verifyQueue
            = p.verifyQueue.filter fun m => laneNos.all fun l => (p.lane l).slot.all fun c => m.tag ≠ c.tag)
      ∧ (p.debounce ≠ none → p.rawEmergency = false → p.emergency = true → p.OutputsFollow →
        ∃ q : Wb610, exec .debounceExpiry s = .next { s with part := q }
          ∧ (∀ l : LaneNo,
            let x := p.lane l
            let y : Lane := { x with rotor := { x.rotor with offset := 0, peak := 0 } }
            q.lane l
              = (p.setLane l
                  (match x.state, x.closePending with
                    | .free (.wasClosed c), _ => y.afterClosing c
                    | .free .wasOpen, some c => y.afterClosing c
                    | .free .wasOpen, none => y.backToIdle
                    | _, _ => x)).lane l)
          ∧ (let told := p.report .emergencyEnd none 0 p.tally .none
            { q with lanes := told.lanes, emergency := true, debounce := told.debounce } = told)
          ∧ q.emergency = false ∧ q.debounce = none)

/-- SUPPLY_SAMPLE sets the state by the table of R172, reports a change, and starts the sampling timer of 100 ms again;
CLOCK_SECOND advances a set clock to 259,199 at most and leaves an unset one alone. -/
def Obligations.SupplyAndClockFollowTheirTables : Prop :=
  (∀ (s : State) (n : Fin 401),
      let p := s.part
      let new : SupplyState :=
        match p.supply with
        | .unknown => if n.val < 185 then .low else .good
        | .good => if n.val < 180 then .low else .good
        | .low => if n.val < 185 then .low else .good
      let sampled : Wb610 := { p with supply := new, lastSample := n.val, sampleTimer := 51200 }
      exec (.supplySample n) s
        = .next { s with
            part :=
              if new = p.supply then sampled
              else sampled.report .supply none (if new = .good then 1 else 2) n.val .none })
    ∧ ∀ s : State,
        (s.part.clock = none → exec .clockSecond s = .next s)
          ∧ ∀ c, s.part.clock = some c →
              exec .clockSecond s
                = .next { s with
                    part :=
                      { s.part with
                        clock := some (if c < 259199 then c + 1 else c), secondTimer := some 512000 } }

/-! ## The server line (Chapter 11) -/

/-- The receiver, byte by byte: HUNTING takes a clean START alone; RECEIVING stores each byte and restarts the gap
timer of 20 ms; each cause of discard has its LINE_ERROR report, a byte with a parity or framing error giving cause 1
whatever else it completes (log 25); a frame with the right CHECK is heard by the silence monitor first, and then
joins the receive buffer or is discarded for overrun. While HUNTING no gap timer runs, and GAP_TIMEOUT changes
nothing (log 2). -/
def Obligations.ReceiverBuildsFrames : Prop :=
  ∀ (s : State) (b : Byte) (lineError : Bool),
    let p := s.part
    let discarded (q : Wb610) (cause : Nat) : Host.Outcome State Fault Refusal :=
      .next { s with part := { q with receiver := .hunting }.report .lineError none cause 0 .none }
    (p.receiver = .hunting →
        exec (.receiverByte b lineError) s
            = .next { s with
                part := if b = 0xA5#8 ∧ lineError = false then { p with receiver := .receiving [] 10240 } else p }
          ∧ exec .gapTimeout s = .next s)
      ∧ ∀ stored gap, p.receiver = .receiving stored gap →
          let got := stored ++ [b]
          let length := fieldAt got 0 2
          let goesOn := exec (.receiverByte b lineError) s
            = .next { s with part := { p with receiver := .receiving got 10240 } }
          let heard : Wb610 :=
            if p.online then { p with silence := some (512000 * p.settings.silenceTimeout) }
            else
              { p with silence := some (512000 * p.settings.silenceTimeout), online := true }.report .link none 1 0
                .none
          exec .gapTimeout s = discarded p 2
            ∧ (lineError = true → exec (.receiverByte b lineError) s = discarded p 1)
            ∧ (lineError = false →
              (got.length < 2 → goesOn)
                ∧ (2 ≤ got.length → (length < 2 ∨ 802 < length) →
                  exec (.receiverByte b lineError) s = discarded p 3)
                ∧ (2 ≤ length → length ≤ 802 → 2 ≤ got.length → got.length < length + 4 → goesOn)
                ∧ (2 ≤ length → length ≤ 802 → length + 4 ≤ got.length →
                  ((crc16 (got.take (length + 2))).toNat ≠ fieldAt got (length + 2) 2 →
                      exec (.receiverByte b lineError) s = discarded p 4)
                    ∧ ((crc16 (got.take (length + 2))).toNat = fieldAt got (length + 2) 2 →
                      (heard.rxBuffer.length < 2 →
                          exec (.receiverByte b lineError) s
                            = .next { s with
                                part :=
                                  { heard with
                                    receiver := .hunting
                                    rxBuffer := heard.rxBuffer
                                      ++ [{ type := got.getD 2 0, tag := got.getD 3 0
                                            payload := (got.drop 4).take (length - 2) }] } })
                        ∧ (2 ≤ heard.rxBuffer.length →
                          exec (.receiverByte b lineError) s = discarded heard 5))))

/-- TRANSMIT_ARBITER takes the oldest response, else the oldest VERIFY message, else, while ONLINE, the oldest report,
in whose freed place a drop count that is not 0 is told; else the line is quiet. While the RESTART response is on
the line nothing is taken until RESTART_RESPONSE_SENT, which empties the queues and leaves START alone, and
which changes nothing with no such response on the line (log 2). When the line is free is the sender's to say
(log 4). -/
def Obligations.ArbiterTakesByPriority : Prop :=
  ∀ s : State,
    let p := s.part
    let onLine := p.handler = .awaitingRestartResponse
      ∧ ∃ tag, p.sending = some { type := 0xD0#8, tag := tag, payload := [0] }
    (onLine →
        exec .transmitArbiter s = .next s
          ∧ exec .restartResponseSent s
            = .next { s with
                part :=
                  { p with
                    reports :=
                      [{ kind := .start, lane := none, time := p.clock, reason := 2, count := p.restartReleased
                         key := .sequence p.nextSequence }]
                    verifyQueue := [], rxBuffer := [], dropCount := 0, handler := .awaitingStart
                    sending := none } })
      ∧ (¬ onLine →
        exec .restartResponseSent s = .next s
          ∧ (∀ f rest, p.responses = f :: rest →
            exec .transmitArbiter s
              = .next { s with part := { p with responses := rest, sending := some f } })
          ∧ (∀ m rest, p.responses = [] → p.verifyQueue = m :: rest →
            exec .transmitArbiter s
              = .next { s with
                  part :=
                    { p with
                      verifyQueue := rest
                      sending := some { type := 0x60#8, tag := byte m.tag, payload := m.record } } })
          ∧ (∀ r rest, p.responses = [] → p.verifyQueue = [] → p.online = true → p.reports = r :: rest →
            p.reports.length ≤ 128 →
            exec .transmitArbiter s
              = .next { s with
                  part :=
                    { p with
                      reports :=
                        if p.dropCount = 0 then rest
                        else
                          rest
                            ++ [{ kind := .reportsDropped, lane := none, time := p.clock, reason := 0
                                  count := p.dropCount, key := .none }]
                      dropCount := 0
                      handler := if r.kind = .start ∧ p.handler = .awaitingStart then .ready else p.handler
                      sending := some { type := 0x61#8, tag := 0, payload := r.record } } })
          ∧ (p.responses = [] → p.verifyQueue = [] → (p.online = false ∨ p.reports = []) →
            exec .transmitArbiter s = .next { s with part := { p with sending := none } }))

/-! ## Frames and records (Layouts) -/

/-- A frame sent byte by byte, START to CHECK, to a HUNTING receiver with a place free arrives as it was. -/
def Obligations.FrameArrivesByteByByte : Prop :=
  ∀ (s : State) (f : Frame),
    f.payload.length ≤ 800 → s.part.receiver = .hunting → s.part.rxBuffer.length < 2 →
    f.bytes.length = f.payload.length + 7
      ∧ execAll (f.bytes.map fun b => .receiverByte b false) s
        = .next { s with
            part :=
              let heard : Wb610 :=
                if s.part.online then { s.part with silence := some (512000 * s.part.settings.silenceTimeout) }
                else
                  { s.part with
                    silence := some (512000 * s.part.settings.silenceTimeout), online := true }.report .link none
                    1 0 .none
              { heard with receiver := .hunting, rxBuffer := s.part.rxBuffer ++ [f] } }

/-- The fields of a journal record, a report record and a VERIFY message stand where the layouts put them, a report's key
fields by what the report names. A key's bucket number is the exclusive-or of its five words and its kind code modulo
4,096. The CRC-16: initial value 0xFFFF, polynomial 0x1021, each byte most significant bit first; a bucket's check
code is the CRC of its entries' records in order. The code tables: kinds, purposes, query causes, lane states, closed
causes, signals, tones, supply states, report kinds and refusal reasons. -/
def Obligations.RecordsAreLaidOut : Prop :=
  (∀ r : JournalRecord, r.sequence < 4294967296 → r.time < 4294967296 →
      r.record.length = 24
        ∧ fieldAt r.record 0 4 = r.sequence ∧ fieldAt r.record 4 4 = r.time ∧ fieldAt r.record 8 1 = r.lane.val
        ∧ fieldAt r.record 9 1 = r.purpose.code ∧ (r.record.drop 10).take 11 = r.key.record
        ∧ fieldAt r.record 21 1 = r.cls.val
        ∧ fieldAt r.record 22 1
          = r.revoked.toNat + 2 * r.double.toNat + 4 * r.verified.toNat + 8 * r.offlineAdmit.toNat
        ∧ fieldAt r.record 23 1 = 0)
    ∧ (∀ r : Report, (∀ t ∈ r.time, t < 4294967296) → r.reason < 256 → r.count < 65536 →
      r.record.length = 20
        ∧ fieldAt r.record 0 1 = r.kind.code
        ∧ fieldAt r.record 1 1 = (match r.lane with | none => 255 | some l => l.val)
        ∧ fieldAt r.record 2 4 = r.time.getD 4294967295 ∧ fieldAt r.record 6 1 = r.reason
        ∧ fieldAt r.record 7 2 = r.count ∧ r.record.drop 9 = r.key.record
        ∧ (r.key = .none → fieldAt r.record 9 1 = 0 ∧ fieldAt r.record 10 10 = 0)
        ∧ (∀ k, r.key = .credential k → r.record.drop 9 = k.record)
        ∧ (∀ n, r.key = .sequence n → n < 4294967296 →
          fieldAt r.record 9 1 = 0 ∧ fieldAt r.record 10 4 = n ∧ fieldAt r.record 14 6 = 0))
    ∧ (∀ m : VerifyMessage, m.tag < 160 →
      m.record.length = 15
        ∧ fieldAt m.record 0 1 = m.tag ∧ fieldAt m.record 1 1 = m.lane.val
        ∧ fieldAt m.record 2 1 = m.purpose.code ∧ (m.record.drop 3).take 11 = m.key.record
        ∧ fieldAt m.record 14 1 = m.cause.code)
    ∧ (∀ k : Key,
      let word (i : Nat) : Nat := k.bytes.toNat / 65536 ^ i % 65536
      fieldAt k.record 0 1 = k.kind.code ∧ fieldAt k.record 1 10 = k.bytes.toNat
        ∧ bucketOf k = (word 4 ^^^ word 3 ^^^ word 2 ^^^ word 1 ^^^ word 0 ^^^ k.kind.code) % 4096)
    ∧ (let bit (c : Word16) : Word16 := if c.msb then c <<< 1 ^^^ 0x1021#16 else c <<< 1
      crc16 [] = 0xFFFF#16
        ∧ (∀ (bytes : List Byte) (b : Byte),
          crc16 (bytes ++ [b])
            = bit (bit (bit (bit (bit (bit (bit (bit (crc16 bytes ^^^ b.setWidth 16 <<< 8)))))))))
        ∧ crc16 [0x31, 0x32, 0x33, 0x34, 0x35, 0x36, 0x37, 0x38, 0x39] = 0x29B1#16)
    ∧ (∀ es : List Entry, checkCode es = crc16 (es.flatMap Entry.record))
    ∧ [KeyKind.barcode, .card4, .card7, .card10].map KeyKind.code = [1, 2, 3, 4]
    ∧ [Purpose.entry, .passout].map Purpose.code = [1, 2]
    ∧ [QueryCause.unknown, .suspect, .flagged].map QueryCause.code = [1, 2, 3]
    ∧ (∀ (c : ClosedCause) (n : Nat) (back : Remembered),
      [LaneState.closed c, .idle, .verifying, .released n, .passing n, .refusing n, .free back, .test c].map
          LaneState.code
        = [0, 1, 2, 3, 4, 5, 6, 7])
    ∧ [ClosedCause.host, .fault, .restart].map ClosedCause.code = [1, 2, 3]
    ∧ [Signal.ready, .wait, .go, .stop, .free].map Signal.code = [1, 2, 3, 4, 5]
    ∧ [Tone.accept, .refuse, .error, .attention].map Tone.code = [1, 2, 3, 4]
    ∧ [SupplyState.unknown, .good, .low].map SupplyState.code = [0, 1, 2]
    ∧ [ReportKind.start, .refused, .abandoned, .stalled, .backturn, .forced, .unpaid, .rotorFault, .laneFault,
        .barcodeFault, .barcodeOk, .readerOffline, .readerOnline, .readerFault, .bucketSuspect, .passoutExpired,
        .sweepDone, .emergencyStart, .emergencyEnd, .supply, .link, .lineError, .reportsDropped].map ReportKind.code
      = [1, 2, 3, 4, 5, 6, 7, 8, 9, 10, 11, 12, 13, 14, 15, 16, 17, 18, 19, 20, 21, 22, 23]
    ∧ [Reason.lowSupply, .badCode, .unknownOffline, .inUse, .void, .spent, .wrongEntrance, .tooEarly, .tooLate,
        .alreadyInside, .passoutExpired, .noPassoutLeft, .notInside, .offline, .hostRefused, .noVerdict, .tableFull,
        .notReady].map Reason.code
      = [1, 2, 3, 4, 5, 6, 7, 8, 9, 10, 11, 12, 13, 14, 15, 16, 17, 18]

/-! ## What every step keeps -/

/-- Every step keeps every lane's lock output and signal at what its state and settings call for. -/
def Obligations.OutputsFollowAlways : Prop :=
  ∀ s t : State, step s = .next t → s.part.OutputsFollow → t.part.OutputsFollow

/-- Every step keeps the table sound: buckets in one canonical form, at most 32 entries each, every entry in its key's
bucket, no key twice, both counts right. Every command but a memory fault keeps every stored check code the code
of its bucket's contents. -/
def Obligations.TableStaysSound : Prop :=
  (∀ s t : State, step s = .next t → s.part.table.Sound → t.part.table.Sound)
    ∧ ∀ (c : Instr) (s t : State), exec c s = .next t → (∀ b values code, c ≠ .memoryFault b values code) →
        s.part.table.CodesAgree → t.part.table.CodesAgree

/-- Every step keeps what each lane carries in each state, the lanes FREE exactly during an emergency, lanes in
service only with the clock set and the supply known, and each waiting VERIFY message the one of its lane's
query. -/
def Obligations.LanesStayShaped : Prop :=
  (∀ s t : State, step s = .next t → s.part.LanesShaped → t.part.LanesShaped)
    ∧ (∀ s t : State, step s = .next t → s.part.LanesShaped → s.part.EmergencyFollows → t.part.EmergencyFollows)
    ∧ (∀ s t : State, step s = .next t → s.part.LanesShaped → s.part.ServiceReady → t.part.ServiceReady)
    ∧ ∀ s t : State, step s = .next t → s.part.LanesShaped → s.part.MessagesMatch → t.part.MessagesMatch

/-- Every step keeps every queue within its capacity, every count within its range, the handler's waits founded, the
journal's numbers without a gap, the sweep paced and the poll at the poll pointer. -/
def Obligations.QueuesAndCountsStayBounded : Prop :=
  (∀ s t : State, step s = .next t → s.part.QueuesBounded → t.part.QueuesBounded)
    ∧ (∀ s t : State, step s = .next t → s.part.HandlerWaits → t.part.HandlerWaits)
    ∧ (∀ s t : State, step s = .next t → s.part.JournalRuns → t.part.JournalRuns)
    ∧ (∀ s t : State, step s = .next t → s.part.InRange → t.part.InRange)
    ∧ (∀ s t : State, step s = .next t → s.part.SweepPaced → t.part.SweepPaced)
    ∧ ∀ s t : State, step s = .next t → s.part.PollPointed → t.part.PollPointed

/-- Headline: no credential is ever held by two lanes or by none. Every step keeps the table sound, the lanes shaped,
and holds matched one to one: every HELD entry is named by the hold reference of the lane it says holds it, and
every hold reference names such an entry, the key of the presentation being admitted. -/
def Obligations.HoldsAlwaysMatch : Prop :=
  ∀ s t : State, step s = .next t → s.part.AdmissionsSound → t.part.AdmissionsSound

/-- The state after reset meets every one of these invariants. -/
def Obligations.ResetMeetsEveryInvariant : Prop :=
  let p := State.reset.part
  p.OutputsFollow ∧ p.table.CodesAgree ∧ p.EmergencyFollows ∧ p.ServiceReady ∧ p.MessagesMatch ∧ p.QueuesBounded
    ∧ p.HandlerWaits ∧ p.JournalRuns ∧ p.InRange ∧ p.SweepPaced ∧ p.PollPointed ∧ p.AdmissionsSound

end
end

