-- ==== Sys2Proof/Laws/State.lean ====
section
/-! SUPPORT. What each shared update leaves of the part's state: one lemma per field, so that no proof unfolds a record
update. Each says that the operation named before the underscore keeps the field named after it. -/

namespace Sys2Proof.Machine

variable (p : Wb610) (l : LaneNo) (x : Lane) (f : Lane → Lane)

/-! ## The queue and the part -/

@[simp] theorem State.pending_part (s : State) (q : Wb610) : ({ s with part := q } : State).pending = s.pending := rfl
@[simp] theorem State.part_pending (s : State) (q : List Instr) : ({ s with pending := q } : State).part = s.part := rfl
@[simp] theorem State.act_eq (s : State) (g : Wb610 → Wb610) : s.act g = .next { s with part := g s.part } := rfl

/-! ## A lane written -/

@[simp] theorem Wb610.setLane_settings : (p.setLane l x).settings = p.settings := rfl
@[simp] theorem Wb610.setLane_table : (p.setLane l x).table = p.table := rfl
@[simp] theorem Wb610.setLane_pollPointer : (p.setLane l x).pollPointer = p.pollPointer := rfl
@[simp] theorem Wb610.setLane_poll : (p.setLane l x).poll = p.poll := rfl
@[simp] theorem Wb610.setLane_verifyQueue : (p.setLane l x).verifyQueue = p.verifyQueue := rfl
@[simp] theorem Wb610.setLane_sweepPointer : (p.setLane l x).sweepPointer = p.sweepPointer := rfl
@[simp] theorem Wb610.setLane_visitTimer : (p.setLane l x).visitTimer = p.visitTimer := rfl
@[simp] theorem Wb610.setLane_fastPass : (p.setLane l x).fastPass = p.fastPass := rfl
@[simp] theorem Wb610.setLane_fastStart : (p.setLane l x).fastStart = p.fastStart := rfl
@[simp] theorem Wb610.setLane_fastCount : (p.setLane l x).fastCount = p.fastCount := rfl
@[simp] theorem Wb610.setLane_journal : (p.setLane l x).journal = p.journal := rfl
@[simp] theorem Wb610.setLane_nextSequence : (p.setLane l x).nextSequence = p.nextSequence := rfl
@[simp] theorem Wb610.setLane_rawEmergency : (p.setLane l x).rawEmergency = p.rawEmergency := rfl
@[simp] theorem Wb610.setLane_emergency : (p.setLane l x).emergency = p.emergency := rfl
@[simp] theorem Wb610.setLane_debounce : (p.setLane l x).debounce = p.debounce := rfl
@[simp] theorem Wb610.setLane_supply : (p.setLane l x).supply = p.supply := rfl
@[simp] theorem Wb610.setLane_lastSample : (p.setLane l x).lastSample = p.lastSample := rfl
@[simp] theorem Wb610.setLane_sampleTimer : (p.setLane l x).sampleTimer = p.sampleTimer := rfl
@[simp] theorem Wb610.setLane_tally : (p.setLane l x).tally = p.tally := rfl
@[simp] theorem Wb610.setLane_clock : (p.setLane l x).clock = p.clock := rfl
@[simp] theorem Wb610.setLane_secondTimer : (p.setLane l x).secondTimer = p.secondTimer := rfl
@[simp] theorem Wb610.setLane_receiver : (p.setLane l x).receiver = p.receiver := rfl
@[simp] theorem Wb610.setLane_rxBuffer : (p.setLane l x).rxBuffer = p.rxBuffer := rfl
@[simp] theorem Wb610.setLane_handler : (p.setLane l x).handler = p.handler := rfl
@[simp] theorem Wb610.setLane_request : (p.setLane l x).request = p.request := rfl
@[simp] theorem Wb610.setLane_responses : (p.setLane l x).responses = p.responses := rfl
@[simp] theorem Wb610.setLane_reports : (p.setLane l x).reports = p.reports := rfl
@[simp] theorem Wb610.setLane_dropCount : (p.setLane l x).dropCount = p.dropCount := rfl
@[simp] theorem Wb610.setLane_sending : (p.setLane l x).sending = p.sending := rfl
@[simp] theorem Wb610.setLane_online : (p.setLane l x).online = p.online := rfl
@[simp] theorem Wb610.setLane_silence : (p.setLane l x).silence = p.silence := rfl
@[simp] theorem Wb610.setLane_restartReleased : (p.setLane l x).restartReleased = p.restartReleased := rfl

@[simp] theorem Wb610.modLane_settings : (p.modLane l f).settings = p.settings := rfl
@[simp] theorem Wb610.modLane_table : (p.modLane l f).table = p.table := rfl
@[simp] theorem Wb610.modLane_pollPointer : (p.modLane l f).pollPointer = p.pollPointer := rfl
@[simp] theorem Wb610.modLane_poll : (p.modLane l f).poll = p.poll := rfl
@[simp] theorem Wb610.modLane_verifyQueue : (p.modLane l f).verifyQueue = p.verifyQueue := rfl
@[simp] theorem Wb610.modLane_sweepPointer : (p.modLane l f).sweepPointer = p.sweepPointer := rfl
@[simp] theorem Wb610.modLane_visitTimer : (p.modLane l f).visitTimer = p.visitTimer := rfl
@[simp] theorem Wb610.modLane_fastPass : (p.modLane l f).fastPass = p.fastPass := rfl
@[simp] theorem Wb610.modLane_fastStart : (p.modLane l f).fastStart = p.fastStart := rfl
@[simp] theorem Wb610.modLane_fastCount : (p.modLane l f).fastCount = p.fastCount := rfl
@[simp] theorem Wb610.modLane_journal : (p.modLane l f).journal = p.journal := rfl
@[simp] theorem Wb610.modLane_nextSequence : (p.modLane l f).nextSequence = p.nextSequence := rfl
@[simp] theorem Wb610.modLane_rawEmergency : (p.modLane l f).rawEmergency = p.rawEmergency := rfl
@[simp] theorem Wb610.modLane_emergency : (p.modLane l f).emergency = p.emergency := rfl
@[simp] theorem Wb610.modLane_debounce : (p.modLane l f).debounce = p.debounce := rfl
@[simp] theorem Wb610.modLane_supply : (p.modLane l f).supply = p.supply := rfl
@[simp] theorem Wb610.modLane_lastSample : (p.modLane l f).lastSample = p.lastSample := rfl
@[simp] theorem Wb610.modLane_sampleTimer : (p.modLane l f).sampleTimer = p.sampleTimer := rfl
@[simp] theorem Wb610.modLane_tally : (p.modLane l f).tally = p.tally := rfl
@[simp] theorem Wb610.modLane_clock : (p.modLane l f).clock = p.clock := rfl
@[simp] theorem Wb610.modLane_secondTimer : (p.modLane l f).secondTimer = p.secondTimer := rfl
@[simp] theorem Wb610.modLane_receiver : (p.modLane l f).receiver = p.receiver := rfl
@[simp] theorem Wb610.modLane_rxBuffer : (p.modLane l f).rxBuffer = p.rxBuffer := rfl
@[simp] theorem Wb610.modLane_handler : (p.modLane l f).handler = p.handler := rfl
@[simp] theorem Wb610.modLane_request : (p.modLane l f).request = p.request := rfl
@[simp] theorem Wb610.modLane_responses : (p.modLane l f).responses = p.responses := rfl
@[simp] theorem Wb610.modLane_reports : (p.modLane l f).reports = p.reports := rfl
@[simp] theorem Wb610.modLane_dropCount : (p.modLane l f).dropCount = p.dropCount := rfl
@[simp] theorem Wb610.modLane_sending : (p.modLane l f).sending = p.sending := rfl
@[simp] theorem Wb610.modLane_online : (p.modLane l f).online = p.online := rfl
@[simp] theorem Wb610.modLane_silence : (p.modLane l f).silence = p.silence := rfl
@[simp] theorem Wb610.modLane_restartReleased : (p.modLane l f).restartReleased = p.restartReleased := rfl

/-! ## A response placed -/

@[simp] theorem Wb610.answer_settings (ty tag : Byte) (code : ResultCode) (fields : List Byte) : (p.answer ty tag code fields).settings = p.settings := rfl
@[simp] theorem Wb610.answer_table (ty tag : Byte) (code : ResultCode) (fields : List Byte) : (p.answer ty tag code fields).table = p.table := rfl
@[simp] theorem Wb610.answer_lanes (ty tag : Byte) (code : ResultCode) (fields : List Byte) : (p.answer ty tag code fields).lanes = p.lanes := rfl
@[simp] theorem Wb610.answer_pollPointer (ty tag : Byte) (code : ResultCode) (fields : List Byte) : (p.answer ty tag code fields).pollPointer = p.pollPointer := rfl
@[simp] theorem Wb610.answer_poll (ty tag : Byte) (code : ResultCode) (fields : List Byte) : (p.answer ty tag code fields).poll = p.poll := rfl
@[simp] theorem Wb610.answer_verifyQueue (ty tag : Byte) (code : ResultCode) (fields : List Byte) : (p.answer ty tag code fields).verifyQueue = p.verifyQueue := rfl
@[simp] theorem Wb610.answer_sweepPointer (ty tag : Byte) (code : ResultCode) (fields : List Byte) : (p.answer ty tag code fields).sweepPointer = p.sweepPointer := rfl
@[simp] theorem Wb610.answer_visitTimer (ty tag : Byte) (code : ResultCode) (fields : List Byte) : (p.answer ty tag code fields).visitTimer = p.visitTimer := rfl
@[simp] theorem Wb610.answer_fastPass (ty tag : Byte) (code : ResultCode) (fields : List Byte) : (p.answer ty tag code fields).fastPass = p.fastPass := rfl
@[simp] theorem Wb610.answer_fastStart (ty tag : Byte) (code : ResultCode) (fields : List Byte) : (p.answer ty tag code fields).fastStart = p.fastStart := rfl
@[simp] theorem Wb610.answer_fastCount (ty tag : Byte) (code : ResultCode) (fields : List Byte) : (p.answer ty tag code fields).fastCount = p.fastCount := rfl
@[simp] theorem Wb610.answer_journal (ty tag : Byte) (code : ResultCode) (fields : List Byte) : (p.answer ty tag code fields).journal = p.journal := rfl
@[simp] theorem Wb610.answer_nextSequence (ty tag : Byte) (code : ResultCode) (fields : List Byte) : (p.answer ty tag code fields).nextSequence = p.nextSequence := rfl
@[simp] theorem Wb610.answer_rawEmergency (ty tag : Byte) (code : ResultCode) (fields : List Byte) : (p.answer ty tag code fields).rawEmergency = p.rawEmergency := rfl
@[simp] theorem Wb610.answer_emergency (ty tag : Byte) (code : ResultCode) (fields : List Byte) : (p.answer ty tag code fields).emergency = p.emergency := rfl
@[simp] theorem Wb610.answer_debounce (ty tag : Byte) (code : ResultCode) (fields : List Byte) : (p.answer ty tag code fields).debounce = p.debounce := rfl
@[simp] theorem Wb610.answer_supply (ty tag : Byte) (code : ResultCode) (fields : List Byte) : (p.answer ty tag code fields).supply = p.supply := rfl
@[simp] theorem Wb610.answer_lastSample (ty tag : Byte) (code : ResultCode) (fields : List Byte) : (p.answer ty tag code fields).lastSample = p.lastSample := rfl
@[simp] theorem Wb610.answer_sampleTimer (ty tag : Byte) (code : ResultCode) (fields : List Byte) : (p.answer ty tag code fields).sampleTimer = p.sampleTimer := rfl
@[simp] theorem Wb610.answer_tally (ty tag : Byte) (code : ResultCode) (fields : List Byte) : (p.answer ty tag code fields).tally = p.tally := rfl
@[simp] theorem Wb610.answer_clock (ty tag : Byte) (code : ResultCode) (fields : List Byte) : (p.answer ty tag code fields).clock = p.clock := rfl
@[simp] theorem Wb610.answer_secondTimer (ty tag : Byte) (code : ResultCode) (fields : List Byte) : (p.answer ty tag code fields).secondTimer = p.secondTimer := rfl
@[simp] theorem Wb610.answer_receiver (ty tag : Byte) (code : ResultCode) (fields : List Byte) : (p.answer ty tag code fields).receiver = p.receiver := rfl
@[simp] theorem Wb610.answer_rxBuffer (ty tag : Byte) (code : ResultCode) (fields : List Byte) : (p.answer ty tag code fields).rxBuffer = p.rxBuffer := rfl
@[simp] theorem Wb610.answer_handler (ty tag : Byte) (code : ResultCode) (fields : List Byte) : (p.answer ty tag code fields).handler = p.handler := rfl
@[simp] theorem Wb610.answer_request (ty tag : Byte) (code : ResultCode) (fields : List Byte) : (p.answer ty tag code fields).request = p.request := rfl
@[simp] theorem Wb610.answer_reports (ty tag : Byte) (code : ResultCode) (fields : List Byte) : (p.answer ty tag code fields).reports = p.reports := rfl
@[simp] theorem Wb610.answer_dropCount (ty tag : Byte) (code : ResultCode) (fields : List Byte) : (p.answer ty tag code fields).dropCount = p.dropCount := rfl
@[simp] theorem Wb610.answer_sending (ty tag : Byte) (code : ResultCode) (fields : List Byte) : (p.answer ty tag code fields).sending = p.sending := rfl
@[simp] theorem Wb610.answer_online (ty tag : Byte) (code : ResultCode) (fields : List Byte) : (p.answer ty tag code fields).online = p.online := rfl
@[simp] theorem Wb610.answer_silence (ty tag : Byte) (code : ResultCode) (fields : List Byte) : (p.answer ty tag code fields).silence = p.silence := rfl
@[simp] theorem Wb610.answer_restartReleased (ty tag : Byte) (code : ResultCode) (fields : List Byte) : (p.answer ty tag code fields).restartReleased = p.restartReleased := rfl

@[simp] theorem Wb610.respond_settings (fr : Frame) (code : ResultCode) (fields : List Byte) : (p.respond fr code fields).settings = p.settings := rfl
@[simp] theorem Wb610.respond_table (fr : Frame) (code : ResultCode) (fields : List Byte) : (p.respond fr code fields).table = p.table := rfl
@[simp] theorem Wb610.respond_lanes (fr : Frame) (code : ResultCode) (fields : List Byte) : (p.respond fr code fields).lanes = p.lanes := rfl
@[simp] theorem Wb610.respond_pollPointer (fr : Frame) (code : ResultCode) (fields : List Byte) : (p.respond fr code fields).pollPointer = p.pollPointer := rfl
@[simp] theorem Wb610.respond_poll (fr : Frame) (code : ResultCode) (fields : List Byte) : (p.respond fr code fields).poll = p.poll := rfl
@[simp] theorem Wb610.respond_verifyQueue (fr : Frame) (code : ResultCode) (fields : List Byte) : (p.respond fr code fields).verifyQueue = p.verifyQueue := rfl
@[simp] theorem Wb610.respond_sweepPointer (fr : Frame) (code : ResultCode) (fields : List Byte) : (p.respond fr code fields).sweepPointer = p.sweepPointer := rfl
@[simp] theorem Wb610.respond_visitTimer (fr : Frame) (code : ResultCode) (fields : List Byte) : (p.respond fr code fields).visitTimer = p.visitTimer := rfl
@[simp] theorem Wb610.respond_fastPass (fr : Frame) (code : ResultCode) (fields : List Byte) : (p.respond fr code fields).fastPass = p.fastPass := rfl
@[simp] theorem Wb610.respond_fastStart (fr : Frame) (code : ResultCode) (fields : List Byte) : (p.respond fr code fields).fastStart = p.fastStart := rfl
@[simp] theorem Wb610.respond_fastCount (fr : Frame) (code : ResultCode) (fields : List Byte) : (p.respond fr code fields).fastCount = p.fastCount := rfl
@[simp] theorem Wb610.respond_journal (fr : Frame) (code : ResultCode) (fields : List Byte) : (p.respond fr code fields).journal = p.journal := rfl
@[simp] theorem Wb610.respond_nextSequence (fr : Frame) (code : ResultCode) (fields : List Byte) : (p.respond fr code fields).nextSequence = p.nextSequence := rfl
@[simp] theorem Wb610.respond_rawEmergency (fr : Frame) (code : ResultCode) (fields : List Byte) : (p.respond fr code fields).rawEmergency = p.rawEmergency := rfl
@[simp] theorem Wb610.respond_emergency (fr : Frame) (code : ResultCode) (fields : List Byte) : (p.respond fr code fields).emergency = p.emergency := rfl
@[simp] theorem Wb610.respond_debounce (fr : Frame) (code : ResultCode) (fields : List Byte) : (p.respond fr code fields).debounce = p.debounce := rfl
@[simp] theorem Wb610.respond_supply (fr : Frame) (code : ResultCode) (fields : List Byte) : (p.respond fr code fields).supply = p.supply := rfl
@[simp] theorem Wb610.respond_lastSample (fr : Frame) (code : ResultCode) (fields : List Byte) : (p.respond fr code fields).lastSample = p.lastSample := rfl
@[simp] theorem Wb610.respond_sampleTimer (fr : Frame) (code : ResultCode) (fields : List Byte) : (p.respond fr code fields).sampleTimer = p.sampleTimer := rfl
@[simp] theorem Wb610.respond_tally (fr : Frame) (code : ResultCode) (fields : List Byte) : (p.respond fr code fields).tally = p.tally := rfl
@[simp] theorem Wb610.respond_clock (fr : Frame) (code : ResultCode) (fields : List Byte) : (p.respond fr code fields).clock = p.clock := rfl
@[simp] theorem Wb610.respond_secondTimer (fr : Frame) (code : ResultCode) (fields : List Byte) : (p.respond fr code fields).secondTimer = p.secondTimer := rfl
@[simp] theorem Wb610.respond_receiver (fr : Frame) (code : ResultCode) (fields : List Byte) : (p.respond fr code fields).receiver = p.receiver := rfl
@[simp] theorem Wb610.respond_rxBuffer (fr : Frame) (code : ResultCode) (fields : List Byte) : (p.respond fr code fields).rxBuffer = p.rxBuffer := rfl
@[simp] theorem Wb610.respond_handler (fr : Frame) (code : ResultCode) (fields : List Byte) : (p.respond fr code fields).handler = p.handler := rfl
@[simp] theorem Wb610.respond_request (fr : Frame) (code : ResultCode) (fields : List Byte) : (p.respond fr code fields).request = p.request := rfl
@[simp] theorem Wb610.respond_reports (fr : Frame) (code : ResultCode) (fields : List Byte) : (p.respond fr code fields).reports = p.reports := rfl
@[simp] theorem Wb610.respond_dropCount (fr : Frame) (code : ResultCode) (fields : List Byte) : (p.respond fr code fields).dropCount = p.dropCount := rfl
@[simp] theorem Wb610.respond_sending (fr : Frame) (code : ResultCode) (fields : List Byte) : (p.respond fr code fields).sending = p.sending := rfl
@[simp] theorem Wb610.respond_online (fr : Frame) (code : ResultCode) (fields : List Byte) : (p.respond fr code fields).online = p.online := rfl
@[simp] theorem Wb610.respond_silence (fr : Frame) (code : ResultCode) (fields : List Byte) : (p.respond fr code fields).silence = p.silence := rfl
@[simp] theorem Wb610.respond_restartReleased (fr : Frame) (code : ResultCode) (fields : List Byte) : (p.respond fr code fields).restartReleased = p.restartReleased := rfl

/-! ## A report placed -/

@[simp] theorem Wb610.placeReport_settings (r : Report) : (p.placeReport r).settings = p.settings := by unfold Wb610.placeReport; split <;> rfl
@[simp] theorem Wb610.placeReport_table (r : Report) : (p.placeReport r).table = p.table := by unfold Wb610.placeReport; split <;> rfl
@[simp] theorem Wb610.placeReport_lanes (r : Report) : (p.placeReport r).lanes = p.lanes := by unfold Wb610.placeReport; split <;> rfl
@[simp] theorem Wb610.placeReport_pollPointer (r : Report) : (p.placeReport r).pollPointer = p.pollPointer := by unfold Wb610.placeReport; split <;> rfl
@[simp] theorem Wb610.placeReport_poll (r : Report) : (p.placeReport r).poll = p.poll := by unfold Wb610.placeReport; split <;> rfl
@[simp] theorem Wb610.placeReport_verifyQueue (r : Report) : (p.placeReport r).verifyQueue = p.verifyQueue := by unfold Wb610.placeReport; split <;> rfl
@[simp] theorem Wb610.placeReport_sweepPointer (r : Report) : (p.placeReport r).sweepPointer = p.sweepPointer := by unfold Wb610.placeReport; split <;> rfl
@[simp] theorem Wb610.placeReport_visitTimer (r : Report) : (p.placeReport r).visitTimer = p.visitTimer := by unfold Wb610.placeReport; split <;> rfl
@[simp] theorem Wb610.placeReport_fastPass (r : Report) : (p.placeReport r).fastPass = p.fastPass := by unfold Wb610.placeReport; split <;> rfl
@[simp] theorem Wb610.placeReport_fastStart (r : Report) : (p.placeReport r).fastStart = p.fastStart := by unfold Wb610.placeReport; split <;> rfl
@[simp] theorem Wb610.placeReport_fastCount (r : Report) : (p.placeReport r).fastCount = p.fastCount := by unfold Wb610.placeReport; split <;> rfl
@[simp] theorem Wb610.placeReport_journal (r : Report) : (p.placeReport r).journal = p.journal := by unfold Wb610.placeReport; split <;> rfl
@[simp] theorem Wb610.placeReport_nextSequence (r : Report) : (p.placeReport r).nextSequence = p.nextSequence := by unfold Wb610.placeReport; split <;> rfl
@[simp] theorem Wb610.placeReport_rawEmergency (r : Report) : (p.placeReport r).rawEmergency = p.rawEmergency := by unfold Wb610.placeReport; split <;> rfl
@[simp] theorem Wb610.placeReport_emergency (r : Report) : (p.placeReport r).emergency = p.emergency := by unfold Wb610.placeReport; split <;> rfl
@[simp] theorem Wb610.placeReport_debounce (r : Report) : (p.placeReport r).debounce = p.debounce := by unfold Wb610.placeReport; split <;> rfl
@[simp] theorem Wb610.placeReport_supply (r : Report) : (p.placeReport r).supply = p.supply := by unfold Wb610.placeReport; split <;> rfl
@[simp] theorem Wb610.placeReport_lastSample (r : Report) : (p.placeReport r).lastSample = p.lastSample := by unfold Wb610.placeReport; split <;> rfl
@[simp] theorem Wb610.placeReport_sampleTimer (r : Report) : (p.placeReport r).sampleTimer = p.sampleTimer := by unfold Wb610.placeReport; split <;> rfl
@[simp] theorem Wb610.placeReport_tally (r : Report) : (p.placeReport r).tally = p.tally := by unfold Wb610.placeReport; split <;> rfl
@[simp] theorem Wb610.placeReport_clock (r : Report) : (p.placeReport r).clock = p.clock := by unfold Wb610.placeReport; split <;> rfl
@[simp] theorem Wb610.placeReport_secondTimer (r : Report) : (p.placeReport r).secondTimer = p.secondTimer := by unfold Wb610.placeReport; split <;> rfl
@[simp] theorem Wb610.placeReport_receiver (r : Report) : (p.placeReport r).receiver = p.receiver := by unfold Wb610.placeReport; split <;> rfl
@[simp] theorem Wb610.placeReport_rxBuffer (r : Report) : (p.placeReport r).rxBuffer = p.rxBuffer := by unfold Wb610.placeReport; split <;> rfl
@[simp] theorem Wb610.placeReport_handler (r : Report) : (p.placeReport r).handler = p.handler := by unfold Wb610.placeReport; split <;> rfl
@[simp] theorem Wb610.placeReport_request (r : Report) : (p.placeReport r).request = p.request := by unfold Wb610.placeReport; split <;> rfl
@[simp] theorem Wb610.placeReport_responses (r : Report) : (p.placeReport r).responses = p.responses := by unfold Wb610.placeReport; split <;> rfl
@[simp] theorem Wb610.placeReport_sending (r : Report) : (p.placeReport r).sending = p.sending := by unfold Wb610.placeReport; split <;> rfl
@[simp] theorem Wb610.placeReport_online (r : Report) : (p.placeReport r).online = p.online := by unfold Wb610.placeReport; split <;> rfl
@[simp] theorem Wb610.placeReport_silence (r : Report) : (p.placeReport r).silence = p.silence := by unfold Wb610.placeReport; split <;> rfl
@[simp] theorem Wb610.placeReport_restartReleased (r : Report) : (p.placeReport r).restartReleased = p.restartReleased := by unfold Wb610.placeReport; split <;> rfl

@[simp] theorem Wb610.report_settings (k : ReportKind) (o : Option LaneNo) (a b : Nat) (c : ReportKey) : (p.report k o a b c).settings = p.settings := p.placeReport_settings _
@[simp] theorem Wb610.report_table (k : ReportKind) (o : Option LaneNo) (a b : Nat) (c : ReportKey) : (p.report k o a b c).table = p.table := p.placeReport_table _
@[simp] theorem Wb610.report_lanes (k : ReportKind) (o : Option LaneNo) (a b : Nat) (c : ReportKey) : (p.report k o a b c).lanes = p.lanes := p.placeReport_lanes _
@[simp] theorem Wb610.report_pollPointer (k : ReportKind) (o : Option LaneNo) (a b : Nat) (c : ReportKey) : (p.report k o a b c).pollPointer = p.pollPointer := p.placeReport_pollPointer _
@[simp] theorem Wb610.report_poll (k : ReportKind) (o : Option LaneNo) (a b : Nat) (c : ReportKey) : (p.report k o a b c).poll = p.poll := p.placeReport_poll _
@[simp] theorem Wb610.report_verifyQueue (k : ReportKind) (o : Option LaneNo) (a b : Nat) (c : ReportKey) : (p.report k o a b c).verifyQueue = p.verifyQueue := p.placeReport_verifyQueue _
@[simp] theorem Wb610.report_sweepPointer (k : ReportKind) (o : Option LaneNo) (a b : Nat) (c : ReportKey) : (p.report k o a b c).sweepPointer = p.sweepPointer := p.placeReport_sweepPointer _
@[simp] theorem Wb610.report_visitTimer (k : ReportKind) (o : Option LaneNo) (a b : Nat) (c : ReportKey) : (p.report k o a b c).visitTimer = p.visitTimer := p.placeReport_visitTimer _
@[simp] theorem Wb610.report_fastPass (k : ReportKind) (o : Option LaneNo) (a b : Nat) (c : ReportKey) : (p.report k o a b c).fastPass = p.fastPass := p.placeReport_fastPass _
@[simp] theorem Wb610.report_fastStart (k : ReportKind) (o : Option LaneNo) (a b : Nat) (c : ReportKey) : (p.report k o a b c).fastStart = p.fastStart := p.placeReport_fastStart _
@[simp] theorem Wb610.report_fastCount (k : ReportKind) (o : Option LaneNo) (a b : Nat) (c : ReportKey) : (p.report k o a b c).fastCount = p.fastCount := p.placeReport_fastCount _
@[simp] theorem Wb610.report_journal (k : ReportKind) (o : Option LaneNo) (a b : Nat) (c : ReportKey) : (p.report k o a b c).journal = p.journal := p.placeReport_journal _
@[simp] theorem Wb610.report_nextSequence (k : ReportKind) (o : Option LaneNo) (a b : Nat) (c : ReportKey) : (p.report k o a b c).nextSequence = p.nextSequence := p.placeReport_nextSequence _
@[simp] theorem Wb610.report_rawEmergency (k : ReportKind) (o : Option LaneNo) (a b : Nat) (c : ReportKey) : (p.report k o a b c).rawEmergency = p.rawEmergency := p.placeReport_rawEmergency _
@[simp] theorem Wb610.report_emergency (k : ReportKind) (o : Option LaneNo) (a b : Nat) (c : ReportKey) : (p.report k o a b c).emergency = p.emergency := p.placeReport_emergency _
@[simp] theorem Wb610.report_debounce (k : ReportKind) (o : Option LaneNo) (a b : Nat) (c : ReportKey) : (p.report k o a b c).debounce = p.debounce := p.placeReport_debounce _
@[simp] theorem Wb610.report_supply (k : ReportKind) (o : Option LaneNo) (a b : Nat) (c : ReportKey) : (p.report k o a b c).supply = p.supply := p.placeReport_supply _
@[simp] theorem Wb610.report_lastSample (k : ReportKind) (o : Option LaneNo) (a b : Nat) (c : ReportKey) : (p.report k o a b c).lastSample = p.lastSample := p.placeReport_lastSample _
@[simp] theorem Wb610.report_sampleTimer (k : ReportKind) (o : Option LaneNo) (a b : Nat) (c : ReportKey) : (p.report k o a b c).sampleTimer = p.sampleTimer := p.placeReport_sampleTimer _
@[simp] theorem Wb610.report_tally (k : ReportKind) (o : Option LaneNo) (a b : Nat) (c : ReportKey) : (p.report k o a b c).tally = p.tally := p.placeReport_tally _
@[simp] theorem Wb610.report_clock (k : ReportKind) (o : Option LaneNo) (a b : Nat) (c : ReportKey) : (p.report k o a b c).clock = p.clock := p.placeReport_clock _
@[simp] theorem Wb610.report_secondTimer (k : ReportKind) (o : Option LaneNo) (a b : Nat) (c : ReportKey) : (p.report k o a b c).secondTimer = p.secondTimer := p.placeReport_secondTimer _
@[simp] theorem Wb610.report_receiver (k : ReportKind) (o : Option LaneNo) (a b : Nat) (c : ReportKey) : (p.report k o a b c).receiver = p.receiver := p.placeReport_receiver _
@[simp] theorem Wb610.report_rxBuffer (k : ReportKind) (o : Option LaneNo) (a b : Nat) (c : ReportKey) : (p.report k o a b c).rxBuffer = p.rxBuffer := p.placeReport_rxBuffer _
@[simp] theorem Wb610.report_handler (k : ReportKind) (o : Option LaneNo) (a b : Nat) (c : ReportKey) : (p.report k o a b c).handler = p.handler := p.placeReport_handler _
@[simp] theorem Wb610.report_request (k : ReportKind) (o : Option LaneNo) (a b : Nat) (c : ReportKey) : (p.report k o a b c).request = p.request := p.placeReport_request _
@[simp] theorem Wb610.report_responses (k : ReportKind) (o : Option LaneNo) (a b : Nat) (c : ReportKey) : (p.report k o a b c).responses = p.responses := p.placeReport_responses _
@[simp] theorem Wb610.report_sending (k : ReportKind) (o : Option LaneNo) (a b : Nat) (c : ReportKey) : (p.report k o a b c).sending = p.sending := p.placeReport_sending _
@[simp] theorem Wb610.report_online (k : ReportKind) (o : Option LaneNo) (a b : Nat) (c : ReportKey) : (p.report k o a b c).online = p.online := p.placeReport_online _
@[simp] theorem Wb610.report_silence (k : ReportKind) (o : Option LaneNo) (a b : Nat) (c : ReportKey) : (p.report k o a b c).silence = p.silence := p.placeReport_silence _
@[simp] theorem Wb610.report_restartReleased (k : ReportKind) (o : Option LaneNo) (a b : Nat) (c : ReportKey) : (p.report k o a b c).restartReleased = p.restartReleased := p.placeReport_restartReleased _

/-! ## A query dropped, a hold released, an admission and a refusal -/

@[simp] theorem Wb610.dropQuery_settings : (p.dropQuery l).settings = p.settings := by unfold Wb610.dropQuery; split <;> rfl
@[simp] theorem Wb610.dropQuery_table : (p.dropQuery l).table = p.table := by unfold Wb610.dropQuery; split <;> rfl
@[simp] theorem Wb610.dropQuery_pollPointer : (p.dropQuery l).pollPointer = p.pollPointer := by unfold Wb610.dropQuery; split <;> rfl
@[simp] theorem Wb610.dropQuery_poll : (p.dropQuery l).poll = p.poll := by unfold Wb610.dropQuery; split <;> rfl
@[simp] theorem Wb610.dropQuery_sweepPointer : (p.dropQuery l).sweepPointer = p.sweepPointer := by unfold Wb610.dropQuery; split <;> rfl
@[simp] theorem Wb610.dropQuery_visitTimer : (p.dropQuery l).visitTimer = p.visitTimer := by unfold Wb610.dropQuery; split <;> rfl
@[simp] theorem Wb610.dropQuery_fastPass : (p.dropQuery l).fastPass = p.fastPass := by unfold Wb610.dropQuery; split <;> rfl
@[simp] theorem Wb610.dropQuery_fastStart : (p.dropQuery l).fastStart = p.fastStart := by unfold Wb610.dropQuery; split <;> rfl
@[simp] theorem Wb610.dropQuery_fastCount : (p.dropQuery l).fastCount = p.fastCount := by unfold Wb610.dropQuery; split <;> rfl
@[simp] theorem Wb610.dropQuery_journal : (p.dropQuery l).journal = p.journal := by unfold Wb610.dropQuery; split <;> rfl
@[simp] theorem Wb610.dropQuery_nextSequence : (p.dropQuery l).nextSequence = p.nextSequence := by unfold Wb610.dropQuery; split <;> rfl
@[simp] theorem Wb610.dropQuery_rawEmergency : (p.dropQuery l).rawEmergency = p.rawEmergency := by unfold Wb610.dropQuery; split <;> rfl
@[simp] theorem Wb610.dropQuery_emergency : (p.dropQuery l).emergency = p.emergency := by unfold Wb610.dropQuery; split <;> rfl
@[simp] theorem Wb610.dropQuery_debounce : (p.dropQuery l).debounce = p.debounce := by unfold Wb610.dropQuery; split <;> rfl
@[simp] theorem Wb610.dropQuery_supply : (p.dropQuery l).supply = p.supply := by unfold Wb610.dropQuery; split <;> rfl
@[simp] theorem Wb610.dropQuery_lastSample : (p.dropQuery l).lastSample = p.lastSample := by unfold Wb610.dropQuery; split <;> rfl
@[simp] theorem Wb610.dropQuery_sampleTimer : (p.dropQuery l).sampleTimer = p.sampleTimer := by unfold Wb610.dropQuery; split <;> rfl
@[simp] theorem Wb610.dropQuery_tally : (p.dropQuery l).tally = p.tally := by unfold Wb610.dropQuery; split <;> rfl
@[simp] theorem Wb610.dropQuery_clock : (p.dropQuery l).clock = p.clock := by unfold Wb610.dropQuery; split <;> rfl
@[simp] theorem Wb610.dropQuery_secondTimer : (p.dropQuery l).secondTimer = p.secondTimer := by unfold Wb610.dropQuery; split <;> rfl
@[simp] theorem Wb610.dropQuery_receiver : (p.dropQuery l).receiver = p.receiver := by unfold Wb610.dropQuery; split <;> rfl
@[simp] theorem Wb610.dropQuery_rxBuffer : (p.dropQuery l).rxBuffer = p.rxBuffer := by unfold Wb610.dropQuery; split <;> rfl
@[simp] theorem Wb610.dropQuery_handler : (p.dropQuery l).handler = p.handler := by unfold Wb610.dropQuery; split <;> rfl
@[simp] theorem Wb610.dropQuery_request : (p.dropQuery l).request = p.request := by unfold Wb610.dropQuery; split <;> rfl
@[simp] theorem Wb610.dropQuery_responses : (p.dropQuery l).responses = p.responses := by unfold Wb610.dropQuery; split <;> rfl
@[simp] theorem Wb610.dropQuery_reports : (p.dropQuery l).reports = p.reports := by unfold Wb610.dropQuery; split <;> rfl
@[simp] theorem Wb610.dropQuery_dropCount : (p.dropQuery l).dropCount = p.dropCount := by unfold Wb610.dropQuery; split <;> rfl
@[simp] theorem Wb610.dropQuery_sending : (p.dropQuery l).sending = p.sending := by unfold Wb610.dropQuery; split <;> rfl
@[simp] theorem Wb610.dropQuery_online : (p.dropQuery l).online = p.online := by unfold Wb610.dropQuery; split <;> rfl
@[simp] theorem Wb610.dropQuery_silence : (p.dropQuery l).silence = p.silence := by unfold Wb610.dropQuery; split <;> rfl
@[simp] theorem Wb610.dropQuery_restartReleased : (p.dropQuery l).restartReleased = p.restartReleased := by unfold Wb610.dropQuery; split <;> rfl

@[simp] theorem Wb610.releaseHold_settings : (p.releaseHold l).settings = p.settings := by unfold Wb610.releaseHold; split <;> rfl
@[simp] theorem Wb610.releaseHold_pollPointer : (p.releaseHold l).pollPointer = p.pollPointer := by unfold Wb610.releaseHold; split <;> rfl
@[simp] theorem Wb610.releaseHold_poll : (p.releaseHold l).poll = p.poll := by unfold Wb610.releaseHold; split <;> rfl
@[simp] theorem Wb610.releaseHold_verifyQueue : (p.releaseHold l).verifyQueue = p.verifyQueue := by unfold Wb610.releaseHold; split <;> rfl
@[simp] theorem Wb610.releaseHold_sweepPointer : (p.releaseHold l).sweepPointer = p.sweepPointer := by unfold Wb610.releaseHold; split <;> rfl
@[simp] theorem Wb610.releaseHold_visitTimer : (p.releaseHold l).visitTimer = p.visitTimer := by unfold Wb610.releaseHold; split <;> rfl
@[simp] theorem Wb610.releaseHold_fastPass : (p.releaseHold l).fastPass = p.fastPass := by unfold Wb610.releaseHold; split <;> rfl
@[simp] theorem Wb610.releaseHold_fastStart : (p.releaseHold l).fastStart = p.fastStart := by unfold Wb610.releaseHold; split <;> rfl
@[simp] theorem Wb610.releaseHold_fastCount : (p.releaseHold l).fastCount = p.fastCount := by unfold Wb610.releaseHold; split <;> rfl
@[simp] theorem Wb610.releaseHold_journal : (p.releaseHold l).journal = p.journal := by unfold Wb610.releaseHold; split <;> rfl
@[simp] theorem Wb610.releaseHold_nextSequence : (p.releaseHold l).nextSequence = p.nextSequence := by unfold Wb610.releaseHold; split <;> rfl
@[simp] theorem Wb610.releaseHold_rawEmergency : (p.releaseHold l).rawEmergency = p.rawEmergency := by unfold Wb610.releaseHold; split <;> rfl
@[simp] theorem Wb610.releaseHold_emergency : (p.releaseHold l).emergency = p.emergency := by unfold Wb610.releaseHold; split <;> rfl
@[simp] theorem Wb610.releaseHold_debounce : (p.releaseHold l).debounce = p.debounce := by unfold Wb610.releaseHold; split <;> rfl
@[simp] theorem Wb610.releaseHold_supply : (p.releaseHold l).supply = p.supply := by unfold Wb610.releaseHold; split <;> rfl
@[simp] theorem Wb610.releaseHold_lastSample : (p.releaseHold l).lastSample = p.lastSample := by unfold Wb610.releaseHold; split <;> rfl
@[simp] theorem Wb610.releaseHold_sampleTimer : (p.releaseHold l).sampleTimer = p.sampleTimer := by unfold Wb610.releaseHold; split <;> rfl
@[simp] theorem Wb610.releaseHold_tally : (p.releaseHold l).tally = p.tally := by unfold Wb610.releaseHold; split <;> rfl
@[simp] theorem Wb610.releaseHold_clock : (p.releaseHold l).clock = p.clock := by unfold Wb610.releaseHold; split <;> rfl
@[simp] theorem Wb610.releaseHold_secondTimer : (p.releaseHold l).secondTimer = p.secondTimer := by unfold Wb610.releaseHold; split <;> rfl
@[simp] theorem Wb610.releaseHold_receiver : (p.releaseHold l).receiver = p.receiver := by unfold Wb610.releaseHold; split <;> rfl
@[simp] theorem Wb610.releaseHold_rxBuffer : (p.releaseHold l).rxBuffer = p.rxBuffer := by unfold Wb610.releaseHold; split <;> rfl
@[simp] theorem Wb610.releaseHold_handler : (p.releaseHold l).handler = p.handler := by unfold Wb610.releaseHold; split <;> rfl
@[simp] theorem Wb610.releaseHold_request : (p.releaseHold l).request = p.request := by unfold Wb610.releaseHold; split <;> rfl
@[simp] theorem Wb610.releaseHold_responses : (p.releaseHold l).responses = p.responses := by unfold Wb610.releaseHold; split <;> rfl
@[simp] theorem Wb610.releaseHold_reports : (p.releaseHold l).reports = p.reports := by unfold Wb610.releaseHold; split <;> rfl
@[simp] theorem Wb610.releaseHold_dropCount : (p.releaseHold l).dropCount = p.dropCount := by unfold Wb610.releaseHold; split <;> rfl
@[simp] theorem Wb610.releaseHold_sending : (p.releaseHold l).sending = p.sending := by unfold Wb610.releaseHold; split <;> rfl
@[simp] theorem Wb610.releaseHold_online : (p.releaseHold l).online = p.online := by unfold Wb610.releaseHold; split <;> rfl
@[simp] theorem Wb610.releaseHold_silence : (p.releaseHold l).silence = p.silence := by unfold Wb610.releaseHold; split <;> rfl
@[simp] theorem Wb610.releaseHold_restartReleased : (p.releaseHold l).restartReleased = p.restartReleased := by unfold Wb610.releaseHold; split <;> rfl

@[simp] theorem Wb610.admitHolder_settings (b c : Bool) : (p.admitHolder l b c).settings = p.settings := rfl
@[simp] theorem Wb610.admitHolder_table (b c : Bool) : (p.admitHolder l b c).table = p.table := rfl
@[simp] theorem Wb610.admitHolder_pollPointer (b c : Bool) : (p.admitHolder l b c).pollPointer = p.pollPointer := rfl
@[simp] theorem Wb610.admitHolder_poll (b c : Bool) : (p.admitHolder l b c).poll = p.poll := rfl
@[simp] theorem Wb610.admitHolder_verifyQueue (b c : Bool) : (p.admitHolder l b c).verifyQueue = p.verifyQueue := rfl
@[simp] theorem Wb610.admitHolder_sweepPointer (b c : Bool) : (p.admitHolder l b c).sweepPointer = p.sweepPointer := rfl
@[simp] theorem Wb610.admitHolder_visitTimer (b c : Bool) : (p.admitHolder l b c).visitTimer = p.visitTimer := rfl
@[simp] theorem Wb610.admitHolder_fastPass (b c : Bool) : (p.admitHolder l b c).fastPass = p.fastPass := rfl
@[simp] theorem Wb610.admitHolder_fastStart (b c : Bool) : (p.admitHolder l b c).fastStart = p.fastStart := rfl
@[simp] theorem Wb610.admitHolder_fastCount (b c : Bool) : (p.admitHolder l b c).fastCount = p.fastCount := rfl
@[simp] theorem Wb610.admitHolder_journal (b c : Bool) : (p.admitHolder l b c).journal = p.journal := rfl
@[simp] theorem Wb610.admitHolder_nextSequence (b c : Bool) : (p.admitHolder l b c).nextSequence = p.nextSequence := rfl
@[simp] theorem Wb610.admitHolder_rawEmergency (b c : Bool) : (p.admitHolder l b c).rawEmergency = p.rawEmergency := rfl
@[simp] theorem Wb610.admitHolder_emergency (b c : Bool) : (p.admitHolder l b c).emergency = p.emergency := rfl
@[simp] theorem Wb610.admitHolder_debounce (b c : Bool) : (p.admitHolder l b c).debounce = p.debounce := rfl
@[simp] theorem Wb610.admitHolder_supply (b c : Bool) : (p.admitHolder l b c).supply = p.supply := rfl
@[simp] theorem Wb610.admitHolder_lastSample (b c : Bool) : (p.admitHolder l b c).lastSample = p.lastSample := rfl
@[simp] theorem Wb610.admitHolder_sampleTimer (b c : Bool) : (p.admitHolder l b c).sampleTimer = p.sampleTimer := rfl
@[simp] theorem Wb610.admitHolder_tally (b c : Bool) : (p.admitHolder l b c).tally = p.tally := rfl
@[simp] theorem Wb610.admitHolder_clock (b c : Bool) : (p.admitHolder l b c).clock = p.clock := rfl
@[simp] theorem Wb610.admitHolder_secondTimer (b c : Bool) : (p.admitHolder l b c).secondTimer = p.secondTimer := rfl
@[simp] theorem Wb610.admitHolder_receiver (b c : Bool) : (p.admitHolder l b c).receiver = p.receiver := rfl
@[simp] theorem Wb610.admitHolder_rxBuffer (b c : Bool) : (p.admitHolder l b c).rxBuffer = p.rxBuffer := rfl
@[simp] theorem Wb610.admitHolder_handler (b c : Bool) : (p.admitHolder l b c).handler = p.handler := rfl
@[simp] theorem Wb610.admitHolder_request (b c : Bool) : (p.admitHolder l b c).request = p.request := rfl
@[simp] theorem Wb610.admitHolder_responses (b c : Bool) : (p.admitHolder l b c).responses = p.responses := rfl
@[simp] theorem Wb610.admitHolder_reports (b c : Bool) : (p.admitHolder l b c).reports = p.reports := rfl
@[simp] theorem Wb610.admitHolder_dropCount (b c : Bool) : (p.admitHolder l b c).dropCount = p.dropCount := rfl
@[simp] theorem Wb610.admitHolder_sending (b c : Bool) : (p.admitHolder l b c).sending = p.sending := rfl
@[simp] theorem Wb610.admitHolder_online (b c : Bool) : (p.admitHolder l b c).online = p.online := rfl
@[simp] theorem Wb610.admitHolder_silence (b c : Bool) : (p.admitHolder l b c).silence = p.silence := rfl
@[simp] theorem Wb610.admitHolder_restartReleased (b c : Bool) : (p.admitHolder l b c).restartReleased = p.restartReleased := rfl

@[simp] theorem Wb610.refuse_settings (r : Reason) : (p.refuse l r).settings = p.settings := by simp [Wb610.refuse]
@[simp] theorem Wb610.refuse_table (r : Reason) : (p.refuse l r).table = p.table := by simp [Wb610.refuse]
@[simp] theorem Wb610.refuse_pollPointer (r : Reason) : (p.refuse l r).pollPointer = p.pollPointer := by simp [Wb610.refuse]
@[simp] theorem Wb610.refuse_poll (r : Reason) : (p.refuse l r).poll = p.poll := by simp [Wb610.refuse]
@[simp] theorem Wb610.refuse_verifyQueue (r : Reason) : (p.refuse l r).verifyQueue = p.verifyQueue := by simp [Wb610.refuse]
@[simp] theorem Wb610.refuse_sweepPointer (r : Reason) : (p.refuse l r).sweepPointer = p.sweepPointer := by simp [Wb610.refuse]
@[simp] theorem Wb610.refuse_visitTimer (r : Reason) : (p.refuse l r).visitTimer = p.visitTimer := by simp [Wb610.refuse]
@[simp] theorem Wb610.refuse_fastPass (r : Reason) : (p.refuse l r).fastPass = p.fastPass := by simp [Wb610.refuse]
@[simp] theorem Wb610.refuse_fastStart (r : Reason) : (p.refuse l r).fastStart = p.fastStart := by simp [Wb610.refuse]
@[simp] theorem Wb610.refuse_fastCount (r : Reason) : (p.refuse l r).fastCount = p.fastCount := by simp [Wb610.refuse]
@[simp] theorem Wb610.refuse_journal (r : Reason) : (p.refuse l r).journal = p.journal := by simp [Wb610.refuse]
@[simp] theorem Wb610.refuse_nextSequence (r : Reason) : (p.refuse l r).nextSequence = p.nextSequence := by simp [Wb610.refuse]
@[simp] theorem Wb610.refuse_rawEmergency (r : Reason) : (p.refuse l r).rawEmergency = p.rawEmergency := by simp [Wb610.refuse]
@[simp] theorem Wb610.refuse_emergency (r : Reason) : (p.refuse l r).emergency = p.emergency := by simp [Wb610.refuse]
@[simp] theorem Wb610.refuse_debounce (r : Reason) : (p.refuse l r).debounce = p.debounce := by simp [Wb610.refuse]
@[simp] theorem Wb610.refuse_supply (r : Reason) : (p.refuse l r).supply = p.supply := by simp [Wb610.refuse]
@[simp] theorem Wb610.refuse_lastSample (r : Reason) : (p.refuse l r).lastSample = p.lastSample := by simp [Wb610.refuse]
@[simp] theorem Wb610.refuse_sampleTimer (r : Reason) : (p.refuse l r).sampleTimer = p.sampleTimer := by simp [Wb610.refuse]
@[simp] theorem Wb610.refuse_tally (r : Reason) : (p.refuse l r).tally = p.tally := by simp [Wb610.refuse]
@[simp] theorem Wb610.refuse_clock (r : Reason) : (p.refuse l r).clock = p.clock := by simp [Wb610.refuse]
@[simp] theorem Wb610.refuse_secondTimer (r : Reason) : (p.refuse l r).secondTimer = p.secondTimer := by simp [Wb610.refuse]
@[simp] theorem Wb610.refuse_receiver (r : Reason) : (p.refuse l r).receiver = p.receiver := by simp [Wb610.refuse]
@[simp] theorem Wb610.refuse_rxBuffer (r : Reason) : (p.refuse l r).rxBuffer = p.rxBuffer := by simp [Wb610.refuse]
@[simp] theorem Wb610.refuse_handler (r : Reason) : (p.refuse l r).handler = p.handler := by simp [Wb610.refuse]
@[simp] theorem Wb610.refuse_request (r : Reason) : (p.refuse l r).request = p.request := by simp [Wb610.refuse]
@[simp] theorem Wb610.refuse_responses (r : Reason) : (p.refuse l r).responses = p.responses := by simp [Wb610.refuse]
@[simp] theorem Wb610.refuse_sending (r : Reason) : (p.refuse l r).sending = p.sending := by simp [Wb610.refuse]
@[simp] theorem Wb610.refuse_online (r : Reason) : (p.refuse l r).online = p.online := by simp [Wb610.refuse]
@[simp] theorem Wb610.refuse_silence (r : Reason) : (p.refuse l r).silence = p.silence := by simp [Wb610.refuse]
@[simp] theorem Wb610.refuse_restartReleased (r : Reason) : (p.refuse l r).restartReleased = p.restartReleased := by simp [Wb610.refuse]

end Sys2Proof.Machine
end

