-- ==== Sys2Proof/Laws/Lanes.lean ====
section
/-! SUPPORT. One lane written and read back, and what setting a lane's outputs (Lane.sync) does. -/

namespace Sys2Proof.Machine

variable (p : Wb610) (l m : LaneNo) (x y : Lane) (f g : Lane → Lane)

/-! ## Reading back -/

@[simp] theorem Wb610.lane_setLane_same : (p.setLane l x).lane l = x.sync := by
  simp [Wb610.lane, Wb610.setLane, Vector.get_eq_getElem]

theorem Wb610.lane_setLane_ne (h : m ≠ l) : (p.setLane l x).lane m = p.lane m := by
  have h' : l.val ≠ m.val := fun e => h (Fin.ext e.symm)
  simp [Wb610.lane, Wb610.setLane, Vector.get_eq_getElem, Vector.getElem_set_ne, h']

@[simp] theorem Wb610.lane_modLane_same : (p.modLane l f).lane l = (f (p.lane l)).sync := p.lane_setLane_same l _

theorem Wb610.lane_modLane_ne (h : m ≠ l) : (p.modLane l f).lane m = p.lane m := p.lane_setLane_ne l m _ h

@[simp] theorem Wb610.setLane_setLane : (p.setLane l x).setLane l y = p.setLane l y := by
  simp [Wb610.setLane]

theorem Wb610.modLane_modLane :
    (p.modLane l f).modLane l g = p.setLane l (g (f (p.lane l)).sync) := by
  simp [Wb610.modLane]

/-- A part is told by its lanes and the rest. -/
theorem Wb610.ext_lanes {p q : Wb610} (rest : { p with lanes := q.lanes } = q) (lanes : ∀ l, p.lane l = q.lane l) :
    p = q := by
  have h : p.lanes = q.lanes := by
    apply Vector.ext
    intro i hi
    exact lanes ⟨i, hi⟩
  rw [← rest, ← h]

/-- The lanes are those of `p` whenever the lane vector is. -/
theorem Wb610.lane_of_lanes {p q : Wb610} (h : p.lanes = q.lanes) : p.lane l = q.lane l := by
  simp [Wb610.lane, h]

@[simp] theorem Wb610.lane_placeReport (r : Report) : (p.placeReport r).lane l = p.lane l :=
  Wb610.lane_of_lanes l (p.placeReport_lanes r)

@[simp] theorem Wb610.lane_report (k : ReportKind) (o : Option LaneNo) (a b : Nat) (c : ReportKey) :
    (p.report k o a b c).lane l = p.lane l := p.lane_placeReport l _

@[simp] theorem Wb610.lane_answer (ty tag : Byte) (code : ResultCode) (fields : List Byte) :
    (p.answer ty tag code fields).lane l = p.lane l := rfl

@[simp] theorem Wb610.lane_respond (fr : Frame) (code : ResultCode) (fields : List Byte) :
    (p.respond fr code fields).lane l = p.lane l := rfl

/-! ## Outputs -/

@[simp] theorem Lane.sync_config : x.sync.config = x.config := rfl
@[simp] theorem Lane.sync_state : x.sync.state = x.state := rfl
@[simp] theorem Lane.sync_closePending : x.sync.closePending = x.closePending := rfl
@[simp] theorem Lane.sync_hold : x.sync.hold = x.hold := rfl
@[simp] theorem Lane.sync_verified : x.sync.verified = x.verified := rfl
@[simp] theorem Lane.sync_offlineAdmit : x.sync.offlineAdmit = x.offlineAdmit := rfl
@[simp] theorem Lane.sync_current : x.sync.current = x.current := rfl
@[simp] theorem Lane.sync_next : x.sync.next = x.next := rfl
@[simp] theorem Lane.sync_repeatMemory : x.sync.repeatMemory = x.repeatMemory := rfl
@[simp] theorem Lane.sync_counters : x.sync.counters = x.counters := rfl
@[simp] theorem Lane.sync_testRelease : x.sync.testRelease = x.testRelease := rfl
@[simp] theorem Lane.sync_rotor : x.sync.rotor = x.rotor := rfl
@[simp] theorem Lane.sync_port : x.sync.port = x.port := rfl
@[simp] theorem Lane.sync_reader : x.sync.reader = x.reader := rfl
@[simp] theorem Lane.sync_slot : x.sync.slot = x.slot := rfl
@[simp] theorem Lane.sync_queryCounter : x.sync.queryCounter = x.queryCounter := rfl
@[simp] theorem Lane.sync_lockOn : x.sync.lockOn = lockFor x.config x.testRelease x.state := rfl

@[simp] theorem SignalUnit.display_commanded (u : SignalUnit) (s : Signal) :
    (u.display s).commanded = u.commanded := by unfold SignalUnit.display; split <;> rfl

@[simp] theorem SignalUnit.display_tone (u : SignalUnit) (s : Signal) : (u.display s).tone = u.tone := by
  unfold SignalUnit.display; split <;> rfl

@[simp] theorem SignalUnit.display_shown (u : SignalUnit) (s : Signal) : (u.display s).shown = s := by
  unfold SignalUnit.display; split
  · assumption
  · rfl

@[simp] theorem SignalUnit.display_self (u : SignalUnit) : u.display u.shown = u := by simp [SignalUnit.display]

@[simp] theorem Lane.sync_commanded : x.sync.signals.commanded = x.signals.commanded := by simp [Lane.sync]
@[simp] theorem Lane.sync_tone : x.sync.signals.tone = x.signals.tone := by simp [Lane.sync]
@[simp] theorem Lane.sync_shown : x.sync.signals.shown = signalFor x.signals.commanded x.state := by
  simp [Lane.sync]

/-- A flash phase stands exactly with a flashing signal, if it did before. -/
theorem SignalUnit.display_flash (u : SignalUnit) (s : Signal) (h : u.flash.isSome = u.shown.flashes) :
    (u.display s).flash.isSome = s.flashes := by
  unfold SignalUnit.display
  split
  · next e => rw [h, e]
  · cases s <;> rfl

/-- A lane whose outputs follow its state is left as it is. -/
theorem Lane.sync_of_follows (h : x.OutputsFollow) : x.sync = x := by
  obtain ⟨h1, h2, _⟩ := h
  unfold Lane.sync
  rw [← h1, ← h2, SignalUnit.display_self]

/-- Setting the outputs makes them follow. -/
theorem Lane.follows_sync (h : x.signals.flash.isSome = x.signals.shown.flashes) : x.sync.OutputsFollow := by
  refine ⟨rfl, by simp, ?_⟩
  rw [Lane.sync_shown]
  exact SignalUnit.display_flash _ _ h

/-- Writing back a lane as it stands changes nothing. -/
theorem Wb610.setLane_self (h : (p.lane l).OutputsFollow) : p.setLane l (p.lane l) = p := by
  apply Wb610.ext_lanes rfl
  intro m
  by_cases e : m = l
  · subst e
    simp [Lane.sync_of_follows _ h]
  · exact p.lane_setLane_ne l m _ e

/-! ## Tones (R162) -/

/-- A request for a tone touches the tone alone. -/
theorem Lane.requestTone_eq (t : Tone) :
    x.requestTone t = { x with signals := { x.signals with tone := (x.requestTone t).signals.tone } } := by
  unfold Lane.requestTone
  split
  · rfl
  · split <;> rfl

end Sys2Proof.Machine
end

