-- ==== Sys2Proof/Laws/PerInstr.lean ====
section
/-! SUPPORT. The family of statements made for every command, one lemma per constructor: no word of the table spells it,
for the table gives no row any bits. -/

namespace Sys2Proof.Laws.TableWords

/-- No word, of any length, spells the command. -/
def Statement (i : Instr) : Prop := ∀ nbits w : Nat, decodeTableWord nbits w ≠ some i

/-- The decoder answers no command to any word. -/
theorem no_word (i : Instr) : Statement i := by
  intro nbits w h
  cases h

theorem powerOn (lineA lineB : BitVec 10) (contactOpen : Bool) : Statement (.powerOn lineA lineB contactOpen) := no_word _
theorem receiverByte (b : Byte) (lineError : Bool) : Statement (.receiverByte b lineError) := no_word _
theorem gapTimeout : Statement .gapTimeout := no_word _
theorem silenceTimeout : Statement .silenceTimeout := no_word _
theorem transmitArbiter : Statement .transmitArbiter := no_word _
theorem restartResponseSent : Statement .restartResponseSent := no_word _
theorem unknownType : Statement .unknownType := no_word _
theorem ping : Statement .ping := no_word _
theorem statusRead (blocks : List StatusBlock) : Statement (.statusRead blocks) := no_word _
theorem gateConfigure : Statement .gateConfigure := no_word _
theorem timeSet : Statement .timeSet := no_word _
theorem laneConfigure : Statement .laneConfigure := no_word _
theorem laneOpen : Statement .laneOpen := no_word _
theorem laneClose : Statement .laneClose := no_word _
theorem laneTestRelease : Statement .laneTestRelease := no_word _
theorem laneTestSignal : Statement .laneTestSignal := no_word _
theorem laneTestTone : Statement .laneTestTone := no_word _
theorem laneTestOffset : Statement .laneTestOffset := no_word _
theorem tableLoad : Statement .tableLoad := no_word _
theorem tableLoadRecord : Statement .tableLoadRecord := no_word _
theorem tableDelete : Statement .tableDelete := no_word _
theorem tableDeleteKey : Statement .tableDeleteKey := no_word _
theorem tableRevoke : Statement .tableRevoke := no_word _
theorem tableRevokeKey : Statement .tableRevokeKey := no_word _
theorem enteredElsewhere : Statement .enteredElsewhere := no_word _
theorem passedOutElsewhere : Statement .passedOutElsewhere := no_word _
theorem tableReadByKey : Statement .tableReadByKey := no_word _
theorem tableReadByBucket : Statement .tableReadByBucket := no_word _
theorem bucketClear : Statement .bucketClear := no_word _
theorem tableClear : Statement .tableClear := no_word _
theorem verdict : Statement .verdict := no_word _
theorem remotePresent (linkLost : Bool) :
    Statement (.remotePresent linkLost) := no_word _
theorem journalRead : Statement .journalRead := no_word _
theorem countersReadKeep : Statement .countersReadKeep := no_word _
theorem countersReadClear : Statement .countersReadClear := no_word _
theorem countersReadLane : Statement .countersReadLane := no_word _
theorem sweepNow : Statement .sweepNow := no_word _
theorem restart : Statement .restart := no_word _
theorem verifyDeadlineExpiry (lane : LaneNo) : Statement (.verifyDeadlineExpiry lane) := no_word _
theorem admitWindowExpiry (lane : LaneNo) (linkLost : Bool) :
    Statement (.admitWindowExpiry lane linkLost) := no_word _
theorem passageLimitExpiry (lane : LaneNo) (linkLost : Bool) :
    Statement (.passageLimitExpiry lane linkLost) := no_word _
theorem refusalDisplayExpiry (lane : LaneNo) (linkLost : Bool) :
    Statement (.refusalDisplayExpiry lane linkLost) := no_word _
theorem nextAgeExpiry (lane : LaneNo) : Statement (.nextAgeExpiry lane) := no_word _
theorem repeatTimerExpiry (lane : LaneNo) : Statement (.repeatTimerExpiry lane) := no_word _
theorem testReleaseExpiry (lane : LaneNo) : Statement (.testReleaseExpiry lane) := no_word _
theorem rotorLineChange (lane : LaneNo) (lineA lineB : Bool) (linkLost : Bool) :
    Statement (.rotorLineChange lane lineA lineB linkLost) := no_word _
theorem barcodeCharacter (lane : LaneNo) (c : Byte) (framingError : Bool) (linkLost : Bool) :
    Statement (.barcodeCharacter lane c framingError linkLost) := no_word _
theorem pollSent : Statement .pollSent := no_word _
theorem busAnswer (bytes : List Byte) (linkLost : Bool) :
    Statement (.busAnswer bytes linkLost) := no_word _
theorem pollWindowExpiry : Statement .pollWindowExpiry := no_word _
theorem repollTimerExpiry (lane : LaneNo) : Statement (.repollTimerExpiry lane) := no_word _
theorem sweepVisit : Statement .sweepVisit := no_word _
theorem fastPassVisit : Statement .fastPassVisit := no_word _
theorem memoryFault (bucket : Fin 4096) (values : List Disturbance) (code : Word16) : Statement (.memoryFault bucket values code) := no_word _
theorem emergencyContactChange (isOpen : Bool) : Statement (.emergencyContactChange isOpen) := no_word _
theorem debounceExpiry : Statement .debounceExpiry := no_word _
theorem supplySample (decivolts : Fin 401) : Statement (.supplySample decivolts) := no_word _
theorem clockSecond : Statement .clockSecond := no_word _
theorem tonePatternEnd (lane : LaneNo) : Statement (.tonePatternEnd lane) := no_word _
theorem flashPhase (lane : LaneNo) : Statement (.flashPhase lane) := no_word _

end Sys2Proof.Laws.TableWords
end

