-- ==== Sys2Proof/Laws/Requests.lean ====
section
/-! SUPPORT. Taking and answering a request, placing a report, and the shape of every command's outcome. -/

namespace Sys2Proof.Machine

/-! ## Requests (R183) -/

variable (p : Wb610) (f : Frame) (rest : List Frame) (serves : Frame → Bool) (body : Wb610 → Frame → Wb610)

/-- The handler takes the oldest frame. -/
theorem Wb610.takeFrame_of_takes (hb : p.rxBuffer = f :: rest) (hq : p.request = none)
    (hr : p.responses.length < 4) (hh : p.handler = .ready) (hs : serves f = true) :
    p.takeFrame serves = some (f, { p with rxBuffer := rest }) := by
  simp [Wb610.takeFrame, Wb610.handlerReady, hb, hq, hr, hh, hs]

/-- A request step whose frame is taken is its body on the part without the frame. -/
theorem Wb610.serve_of_takes (hb : p.rxBuffer = f :: rest) (hq : p.request = none)
    (hr : p.responses.length < 4) (hh : p.handler = .ready) (hs : serves f = true) :
    p.serve serves body = body { p with rxBuffer := rest } f := by
  simp [Wb610.serve, p.takeFrame_of_takes f rest serves hb hq hr hh hs]

/-- A request step whose frame is not its own changes nothing. -/
theorem Wb610.serve_of_not (hs : ∀ g ∈ p.rxBuffer.head?, serves g = false) : p.serve serves body = p := by
  cases hb : p.rxBuffer with
  | nil => simp [Wb610.serve, Wb610.takeFrame, hb]
  | cons g gs =>
    have := hs g (by simp [hb])
    simp [Wb610.serve, Wb610.takeFrame, hb, this]

/-- All that a request step can be: nothing at all, or its body on the part without the oldest frame. -/
theorem Wb610.serve_cases :
    p.serve serves body = p ∨
      ∃ g gs, p.rxBuffer = g :: gs ∧ p.request = none ∧ p.responses.length < 4 ∧ p.handler = .ready
        ∧ serves g = true ∧ p.serve serves body = body { p with rxBuffer := gs } g := by
  cases hb : p.rxBuffer with
  | nil => left; simp [Wb610.serve, Wb610.takeFrame, hb]
  | cons g gs =>
    by_cases hc : (p.handlerReady && serves g) = true
    · right
      have hs : serves g = true := by simp_all
      have hr : p.handlerReady = true := by simp_all
      simp only [Wb610.handlerReady, Bool.and_eq_true, decide_eq_true_eq, Option.isNone_iff_eq_none] at hr
      exact ⟨g, gs, rfl, hr.1.1, hr.1.2, hr.2, hs,
        p.serve_of_takes g gs serves body hb hr.1.1 hr.1.2 hr.2 hs⟩
    · left
      simp [Wb610.serve, Wb610.takeFrame, hb, hc]

/-- A request of one TYPE and the right length. -/
theorem Wb610.serveFixed_of_takes (ty : Byte) (n : Nat) (hb : p.rxBuffer = f :: rest) (hq : p.request = none)
    (hr : p.responses.length < 4) (hh : p.handler = .ready) (ht : f.type = ty) (hn : f.payload.length = n) :
    p.serveFixed ty n body = body { p with rxBuffer := rest } f := by
  simp [Wb610.serveFixed, p.serve_of_takes f rest _ _ hb hq hr hh, ht, hn]

/-- A request of one TYPE and a wrong length is answered BAD_REQUEST (R184). -/
theorem Wb610.serveFixed_of_wrong_length (ty : Byte) (n : Nat) (hb : p.rxBuffer = f :: rest)
    (hq : p.request = none) (hr : p.responses.length < 4) (hh : p.handler = .ready) (ht : f.type = ty)
    (hn : f.payload.length ≠ n) :
    p.serveFixed ty n body = ({ p with rxBuffer := rest }).respond f .badRequest [] := by
  simp [Wb610.serveFixed, p.serve_of_takes f rest _ _ hb hq hr hh, ht, hn]

/-- The same from `State.Takes`. -/
theorem State.Takes.serve {s : State} {f : Frame} {rest : List Frame} (h : s.Takes f rest) {serves : Frame → Bool}
    (body : Wb610 → Frame → Wb610) (hs : serves f = true) :
    s.part.serve serves body = body { s.part with rxBuffer := rest } f :=
  s.part.serve_of_takes f rest serves body h.1 h.2.1 h.2.2.1 h.2.2.2 hs

/-- A request of one TYPE and the right length, from `State.Takes`. -/
theorem State.Takes.serveFixed {s : State} {f : Frame} {rest : List Frame} (h : s.Takes f rest) {ty : Byte} {n : Nat}
    (body : Wb610 → Frame → Wb610) (ht : f.type = ty) (hn : f.payload.length = n) :
    s.part.serveFixed ty n body = body { s.part with rxBuffer := rest } f :=
  s.part.serveFixed_of_takes f rest body ty n h.1 h.2.1 h.2.2.1 h.2.2.2 ht hn

/-- A request of one TYPE and a wrong length, from `State.Takes`. -/
theorem State.Takes.serveFixed_wrong {s : State} {f : Frame} {rest : List Frame} (h : s.Takes f rest) {ty : Byte}
    {n : Nat} (body : Wb610 → Frame → Wb610) (ht : f.type = ty) (hn : f.payload.length ≠ n) :
    s.part.serveFixed ty n body = ({ s.part with rxBuffer := rest }).respond f .badRequest [] :=
  s.part.serveFixed_of_wrong_length f rest body ty n h.1 h.2.1 h.2.2.1 h.2.2.2 ht hn

/-- A response placed on a part whose frame has left the buffer, as the statements write it. -/
theorem State.respond_eq_answered (s : State) (f : Frame) (rest : List Frame) (q : Wb610)
    (hq : q.rxBuffer = rest) (hr : q.responses = s.part.responses) (code : ResultCode) (fields : List Byte) :
    ({ s with part := q.respond f code fields } : State) = s.answered rest q (f.reply code.code fields) := by
  subst hq
  simp only [Wb610.respond, Wb610.answer, State.answered, hr]
  rfl

/-! ## STATUS READ (R190) -/

/-- The response has 68 parts. -/
theorem statusParts_length : statusParts.length = 68 := rfl

/-- Each of its parts is read from one of the blocks. -/
theorem statusParts_mem_every : ∀ r ∈ statusParts.map (·.1), r ∈ StatusBlock.every := by decide +kernel

/-- Reading some blocks keeps the number of parts. -/
theorem Wb610.readBlocks_length (blocks : List StatusBlock) (read : List (Option (List Byte)))
    (h : read.length = 68) : (p.readBlocks blocks read).length = 68 := by
  simp [Wb610.readBlocks, statusParts_length, h]

/-- A part once read is kept. -/
theorem Wb610.readBlocks_keeps (blocks : List StatusBlock) (read : List (Option (List Byte))) (i : Nat)
    (bytes : List Byte) (hi : i < 68) (h : read[i]? = some (some bytes)) :
    (p.readBlocks blocks read)[i]? = some (some bytes) := by
  obtain ⟨hl, hr⟩ := List.getElem?_eq_some_iff.mp h
  have hs : i < statusParts.length := hi
  simp [Wb610.readBlocks, List.getElem?_zipWith, List.getElem?_eq_getElem hl, List.getElem?_eq_getElem hs, hr]

/-- While a part is not read the request goes on. -/
theorem Wb610.continueStatus_of_missing (tag : Byte) (read : List (Option (List Byte))) (h : none ∈ read) :
    p.continueStatus tag read = { p with request := some (.status tag read) } := by
  have : read.all Option.isSome = false := List.all_eq_false.mpr ⟨none, h, by simp⟩
  simp [Wb610.continueStatus, this]

/-- With every part read the response joins the queue. -/
theorem Wb610.continueStatus_of_read (tag : Byte) (read : List (Option (List Byte))) (h : none ∉ read) :
    p.continueStatus tag read
      = { p with request := none }.answer 0x02#8 tag .ok (read.filterMap id).flatten := by
  have : read.all Option.isSome = true := by
    refine List.all_eq_true.mpr fun x hx => ?_
    cases x with
    | none => exact absurd hx h
    | some _ => rfl
  simp [Wb610.continueStatus, this]

/-! ## Reports (R187) -/

/-- With a place free the report joins the end of the queue. -/
theorem Wb610.placeReport_of_room (r : Report) (h : p.reports.length < 128) :
    p.placeReport r = { p with reports := p.reports ++ [r] } := by
  simp [Wb610.placeReport, h]

/-- With the queue full the report is discarded and counted. -/
theorem Wb610.placeReport_of_full (r : Report) (h : 128 ≤ p.reports.length) :
    p.placeReport r = { p with dropCount := addOne16 p.dropCount } := by
  have : ¬ p.reports.length < 128 := by omega
  simp [Wb610.placeReport, this]

/-- The queue never grows past 128. -/
theorem Wb610.placeReport_length (r : Report) (h : p.reports.length ≤ 128) :
    (p.placeReport r).reports.length ≤ 128 := by
  rcases Nat.lt_or_ge p.reports.length 128 with hlt | hge
  · rw [p.placeReport_of_room r hlt]; simp; omega
  · rw [p.placeReport_of_full r hge]; exact h

/-- The reports that waited are still there, in their order, ahead of anything new. -/
theorem Wb610.placeReport_keeps (r : Report) : p.reports <+: (p.placeReport r).reports := by
  rcases Nat.lt_or_ge p.reports.length 128 with hlt | hge
  · rw [p.placeReport_of_room r hlt]; exact List.prefix_append _ _
  · rw [p.placeReport_of_full r hge]

theorem addOne16_le (n : Nat) (h : n ≤ 65535) : addOne16 n ≤ 65535 := by
  unfold addOne16 Config.count16Max; split <;> omega

theorem addOne32_le (n : Nat) (h : n ≤ 4294967295) : addOne32 n ≤ 4294967295 := by
  unfold addOne32 Config.count32Max; split <;> omega

/-- A drop count in its range stays there. -/
theorem Wb610.placeReport_dropCount_le (r : Report) (h : p.dropCount ≤ 65535) :
    (p.placeReport r).dropCount ≤ 65535 := by
  unfold Wb610.placeReport
  split
  · exact h
  · exact addOne16_le _ h

/-! ## Responses -/

@[simp] theorem Wb610.answer_responses (ty tag : Byte) (code : ResultCode) (fields : List Byte) :
    (p.answer ty tag code fields).responses
      = p.responses ++ [{ type := ty + 0x80#8, tag := tag, payload := code.code :: fields }] := rfl

@[simp] theorem Wb610.respond_responses (code : ResultCode) (fields : List Byte) :
    (p.respond f code fields).responses
      = p.responses ++ [{ type := f.type + 0x80#8, tag := f.tag, payload := code.code :: fields }] := rfl

end Sys2Proof.Machine
end

