-- ==== Sys2Proof/Laws/Table.lean ====
section
/-! SUPPORT. The credential table's list of buckets: what a bucket written reads as, and the canonical form kept. -/

namespace Sys2Proof.Machine

theorem Bucket.eq_empty_of_isEmpty {v : Bucket} (h : v.isEmpty = true) : v = .empty := by
  obtain ⟨es, c, s⟩ := v
  simp only [Bucket.isEmpty, Bool.and_eq_true, List.isEmpty_iff, decide_eq_true_eq, Bool.not_eq_eq_eq_not,
    Bool.not_true] at h
  obtain ⟨⟨h1, h2⟩, h3⟩ := h
  subst h1 h2 h3
  rfl

/-- The canonical form of a list with a first bucket, taken apart. -/
theorem bucketsWf_cons {k : Nat} {v : Bucket} {rest : List (Nat × Bucket)} (h : bucketsWf ((k, v) :: rest) = true) :
    k < 4096 ∧ v.isEmpty = false ∧ (∀ r ∈ rest, k < r.1) ∧ bucketsWf rest = true := by
  simp only [bucketsWf, Bool.and_eq_true, decide_eq_true_eq, Bool.not_eq_eq_eq_not, Bool.not_true,
    List.all_eq_true] at h
  exact ⟨h.1.1.1, h.1.1.2, h.1.2, h.2⟩

theorem bucketsWf_cons_iff {k : Nat} {v : Bucket} {rest : List (Nat × Bucket)} :
    bucketsWf ((k, v) :: rest) = true ↔
      k < 4096 ∧ v.isEmpty = false ∧ (∀ r ∈ rest, k < r.1) ∧ bucketsWf rest = true := by
  constructor
  · exact bucketsWf_cons
  · rintro ⟨h1, h2, h3, h4⟩
    simp only [bucketsWf, Bool.and_eq_true, decide_eq_true_eq, Bool.not_eq_eq_eq_not, Bool.not_true,
      List.all_eq_true]
    exact ⟨⟨⟨h1, h2⟩, h3⟩, h4⟩

/-- Below the first listed number every bucket is empty. -/
theorem bucketAt_of_lt {l : List (Nat × Bucket)} {b : Nat} (h : ∀ r ∈ l, b < r.1) : bucketAt l b = .empty := by
  induction l with
  | nil => rfl
  | cons a rest ih =>
    obtain ⟨k, w⟩ := a
    have hk : b < k := h (k, w) (by simp)
    simp only [bucketAt, if_neg (Nat.ne_of_gt hk)]
    exact ih fun r hr => h r (by simp [hr])

/-- The bucket written reads back. -/
theorem bucketAt_putBucket_same {l : List (Nat × Bucket)} (h : bucketsWf l = true) (b : Nat) (v : Bucket) :
    bucketAt (putBucket l b v) b = v := by
  induction l with
  | nil =>
    unfold putBucket
    split
    · next e => rw [Bucket.eq_empty_of_isEmpty e]; rfl
    · simp [bucketAt]
  | cons a rest ih =>
    obtain ⟨k, w⟩ := a
    obtain ⟨_, _, hlt, hwf⟩ := bucketsWf_cons h
    unfold putBucket
    by_cases h1 : b < k
    · simp only [if_pos h1]
      split
      · next e =>
        rw [Bucket.eq_empty_of_isEmpty e]
        apply bucketAt_of_lt
        intro r hr
        rcases List.mem_cons.mp hr with rfl | hr
        · exact h1
        · exact Nat.lt_trans h1 (hlt r hr)
      · simp [bucketAt]
    · simp only [if_neg h1]
      by_cases h2 : b = k
      · subst h2
        simp only [if_true]
        split
        · next e => rw [Bucket.eq_empty_of_isEmpty e]; exact bucketAt_of_lt hlt
        · simp [bucketAt]
      · simp only [if_neg h2, bucketAt, if_neg (Ne.symm h2)]
        exact ih hwf

/-- Every other bucket reads as before. -/
theorem bucketAt_putBucket_ne {l : List (Nat × Bucket)} (b c : Nat) (hne : c ≠ b) (v : Bucket) :
    bucketAt (putBucket l b v) c = bucketAt l c := by
  induction l with
  | nil =>
    unfold putBucket
    split
    · rfl
    · simp [bucketAt, Ne.symm hne]
  | cons a rest ih =>
    obtain ⟨k, w⟩ := a
    unfold putBucket
    by_cases h1 : b < k
    · simp only [if_pos h1]
      split
      · rfl
      · simp [bucketAt, Ne.symm hne]
    · simp only [if_neg h1]
      by_cases h2 : b = k
      · subst h2
        simp only [if_true]
        split <;> simp [bucketAt, Ne.symm hne]
      · simp only [if_neg h2, bucketAt]
        split
        · rfl
        · exact ih

/-- The numbers listed after a write are among those before and the one written. -/
theorem mem_putBucket {l : List (Nat × Bucket)} {b : Nat} {v : Bucket} {r : Nat × Bucket}
    (h : r ∈ putBucket l b v) : r ∈ l ∨ r = (b, v) := by
  induction l with
  | nil =>
    unfold putBucket at h
    split at h
    · simp at h
    · simpa using h
  | cons a rest ih =>
    obtain ⟨k, w⟩ := a
    unfold putBucket at h
    by_cases h1 : b < k
    · simp only [if_pos h1] at h
      split at h
      · exact .inl h
      · rcases List.mem_cons.mp h with rfl | h
        · exact .inr rfl
        · exact .inl h
    · simp only [if_neg h1] at h
      by_cases h2 : b = k
      · subst h2
        simp only [if_true] at h
        split at h
        · exact .inl (by simp [h])
        · rcases List.mem_cons.mp h with rfl | h
          · exact .inr rfl
          · exact .inl (by simp [h])
      · simp only [if_neg h2] at h
        rcases List.mem_cons.mp h with rfl | h
        · exact .inl (by simp)
        · rcases ih h with h | h
          · exact .inl (by simp [h])
          · exact .inr h

/-- A write keeps the canonical form. -/
theorem bucketsWf_putBucket {l : List (Nat × Bucket)} (h : bucketsWf l = true) {b : Nat} (hb : b < 4096)
    (v : Bucket) : bucketsWf (putBucket l b v) = true := by
  induction l with
  | nil =>
    unfold putBucket
    split
    · rfl
    · next e => exact bucketsWf_cons_iff.mpr ⟨hb, by simpa using e, by simp, rfl⟩
  | cons a rest ih =>
    obtain ⟨k, w⟩ := a
    obtain ⟨hk, hw, hlt, hwf⟩ := bucketsWf_cons h
    unfold putBucket
    by_cases h1 : b < k
    · simp only [if_pos h1]
      split
      · exact h
      · next e =>
        refine bucketsWf_cons_iff.mpr ⟨hb, by simpa using e, ?_, h⟩
        intro r hr
        rcases List.mem_cons.mp hr with rfl | hr
        · exact h1
        · exact Nat.lt_trans h1 (hlt r hr)
    · simp only [if_neg h1]
      by_cases h2 : b = k
      · subst h2
        simp only [if_true]
        split
        · exact hwf
        · next e => exact bucketsWf_cons_iff.mpr ⟨hb, by simpa using e, hlt, hwf⟩
      · simp only [if_neg h2]
        refine bucketsWf_cons_iff.mpr ⟨hk, hw, ?_, ih hwf⟩
        intro r hr
        rcases mem_putBucket hr with hr | rfl
        · exact hlt r hr
        · simp only; omega

/-- A listed bucket reads as listed. -/
theorem bucketAt_of_mem {l : List (Nat × Bucket)} (h : bucketsWf l = true) {b : Nat} {v : Bucket}
    (hm : (b, v) ∈ l) : bucketAt l b = v := by
  induction l with
  | nil => simp at hm
  | cons a rest ih =>
    obtain ⟨k, w⟩ := a
    obtain ⟨_, _, hlt, hwf⟩ := bucketsWf_cons h
    rcases List.mem_cons.mp hm with e | hm
    · cases e; simp [bucketAt]
    · have : k < b := hlt (b, v) hm
      simp only [bucketAt, if_neg (Nat.ne_of_lt this)]
      exact ih hwf hm

/-- A bucket reads as the empty one or stands in the list. -/
theorem bucketAt_mem_or_empty (l : List (Nat × Bucket)) (b : Nat) :
    bucketAt l b = .empty ∨ (b, bucketAt l b) ∈ l := by
  induction l with
  | nil => exact .inl rfl
  | cons a rest ih =>
    obtain ⟨k, w⟩ := a
    by_cases h : k = b
    · subst h; right; simp [bucketAt]
    · simp only [bucketAt, if_neg h]
      rcases ih with e | e
      · exact .inl e
      · exact .inr (by simp [e])

/-! ## The table -/

variable (t : Table) (b c : Nat) (v : Bucket) (es : List Entry)

theorem Table.bucket_setBucket_same (h : bucketsWf t.buckets = true) : (t.setBucket b v).bucket b = v :=
  bucketAt_putBucket_same h b v

theorem Table.bucket_setBucket_ne (h : c ≠ b) : (t.setBucket b v).bucket c = t.bucket c :=
  bucketAt_putBucket_ne b c h v

theorem Table.bucket_writeEntries_same (h : bucketsWf t.buckets = true) :
    (t.writeEntries b es).bucket b = { entries := es, code := checkCode es, suspect := (t.bucket b).suspect } :=
  t.bucket_setBucket_same b _ h

theorem Table.bucket_writeEntries_ne (h : c ≠ b) : (t.writeEntries b es).bucket c = t.bucket c :=
  t.bucket_setBucket_ne b c _ h

theorem bucketOf_lt (k : Key) : bucketOf k < 4096 := Nat.mod_lt _ (by decide)

/-- The sums of the counts over the listed buckets follow a write. -/
theorem sum_putBucket (g : Bucket → Nat) (h0 : g .empty = 0) {l : List (Nat × Bucket)} (h : bucketsWf l = true) :
    ((putBucket l b v).map fun r => g r.2).sum + g (bucketAt l b) = (l.map fun r => g r.2).sum + g v := by
  induction l with
  | nil =>
    unfold putBucket
    split
    · next e => rw [Bucket.eq_empty_of_isEmpty e]; rfl
    · simp [bucketAt, h0]
  | cons a rest ih =>
    obtain ⟨k, w⟩ := a
    obtain ⟨_, _, hlt, hwf⟩ := bucketsWf_cons h
    unfold putBucket
    by_cases h1 : b < k
    · have he : bucketAt ((k, w) :: rest) b = .empty := by
        apply bucketAt_of_lt
        intro r hr
        rcases List.mem_cons.mp hr with rfl | hr
        · exact h1
        · exact Nat.lt_trans h1 (hlt r hr)
      simp only [if_pos h1, he, h0]
      split
      · next e => rw [Bucket.eq_empty_of_isEmpty e]; simp [h0]
      · simp; omega
    · simp only [if_neg h1]
      by_cases h2 : b = k
      · subst h2
        simp only [if_true, bucketAt]
        split
        · next e => rw [Bucket.eq_empty_of_isEmpty e]; simp [h0]; omega
        · simp; omega
      · have := ih hwf
        simp only [if_neg h2, bucketAt, if_neg (Ne.symm h2), List.map_cons, List.sum_cons]
        omega

/-- A write of a sound bucket keeps the table sound. -/
theorem Table.sound_setBucket (h : t.Sound) (hb : b < 4096) (hv : v.Sound b) : (t.setBucket b v).Sound := by
  obtain ⟨hwf, hbk, hcount, hsus⟩ := h
  refine ⟨bucketsWf_putBucket hwf hb v, ?_, ?_, ?_⟩
  · intro r hr
    rcases mem_putBucket hr with hr | rfl
    · exact hbk r hr
    · exact hv
  · have := sum_putBucket b v (fun w => w.entries.length) rfl hwf
    simp only [Table.setBucket, Table.bucket, hcount]
    omega
  · have := sum_putBucket b v (fun w => w.suspect.toNat) rfl hwf
    simp only [Table.setBucket, Table.bucket, hsus]
    omega

/-- Every bucket of a sound table is sound. -/
theorem Table.sound_bucket (h : t.Sound) (c : Nat) : (t.bucket c).Sound c := by
  rcases bucketAt_mem_or_empty t.buckets c with e | e
  · unfold Table.bucket
    rw [e]
    exact ⟨by simp [Bucket.empty], by simp [Bucket.empty], by simp [Bucket.empty]⟩
  · exact h.2.1 _ e

/-- Writing entries recomputes the code, so agreement is kept. -/
theorem Table.codesAgree_writeEntries (h : t.CodesAgree) : (t.writeEntries b es).CodesAgree := by
  intro r hr
  rcases mem_putBucket hr with hr | rfl
  · exact h r hr
  · rfl

/-- Entries changed in place with their keys kept leave a bucket sound. -/
theorem Bucket.sound_map {b : Nat} {v : Bucket} (h : v.Sound b) (f : Entry → Entry) (hf : ∀ e, (f e).key = e.key)
    (code : Word16) (s : Bool) : ({ entries := v.entries.map f, code := code, suspect := s } : Bucket).Sound b := by
  obtain ⟨h1, h2, h3⟩ := h
  refine ⟨by simpa using h1, ?_, ?_⟩
  · intro e he
    obtain ⟨e', he', rfl⟩ := List.mem_map.mp he
    rw [hf]
    exact h2 e' he'
  · rw [List.map_map]
    have : (fun x : Entry => x.key) ∘ f = fun x : Entry => x.key := funext hf
    rw [this]
    exact h3

/-- Changing an entry without its key keeps the table sound. -/
theorem Table.sound_modify (h : t.Sound) (k : Key) (f : Entry → Entry) (hf : ∀ e, (f e).key = e.key) :
    (t.modify k f).Sound := by
  unfold Table.modify
  simp only
  split
  · exact h
  · apply t.sound_setBucket _ _ h (bucketOf_lt k)
    apply Bucket.sound_map (t.sound_bucket h _)
    intro e
    split
    · exact hf e
    · rfl

theorem Table.codesAgree_modify (h : t.CodesAgree) (k : Key) (f : Entry → Entry) : (t.modify k f).CodesAgree := by
  unfold Table.modify
  simp only
  split
  · exact h
  · exact t.codesAgree_writeEntries _ _ h

end Sys2Proof.Machine
end

