-- ==== Sys2Proof/Laws/Verify.lean ====
section
/-! SUPPORT. Link loss: what settling the queries of other lanes leaves of a lane, of the settings and of the clock, and
what the opening of a query finds (R123, R132, R133, R185). -/

namespace Sys2Proof.Machine

variable (p : Wb610) (l m : LaneNo)

/-! ## What the steps of a settlement keep -/

/-- A lane without a query has nothing to drop. -/
theorem Wb610.dropQuery_of_none (h : (p.lane l).slot = none) : p.dropQuery l = p := by
  simp [Wb610.dropQuery, h]

/-- A lane without a query is not settled. -/
theorem Wb610.settleWithoutHost_of_none (h : (p.lane l).slot = none) : p.settleWithoutHost l = p := by
  simp [Wb610.settleWithoutHost, h]

/-- Dropping one lane's query leaves every other lane alone. -/
theorem Wb610.dropQuery_lane_ne (h : m ≠ l) : (p.dropQuery l).lane m = p.lane m := by
  unfold Wb610.dropQuery
  split
  · rfl
  · rw [Wb610.lane_modLane_ne _ _ _ _ h]; rfl

/-- Releasing one lane's hold leaves every other lane alone. -/
theorem Wb610.releaseHold_lane_ne (h : m ≠ l) : (p.releaseHold l).lane m = p.lane m := by
  unfold Wb610.releaseHold
  split
  · rfl
  · rw [Wb610.lane_modLane_ne _ _ _ _ h]; rfl

/-- One lane's refusal leaves every other lane alone. -/
theorem Wb610.refuse_lane_ne (r : Reason) (h : m ≠ l) : (p.refuse l r).lane m = p.lane m := by
  rw [Wb610.refuse, Wb610.lane_report, Wb610.lane_modLane_ne _ _ _ _ h]

/-- One lane's admission leaves every other lane alone. -/
theorem Wb610.admitHolder_lane_ne (v o : Bool) (h : m ≠ l) : (p.admitHolder l v o).lane m = p.lane m :=
  p.lane_modLane_ne l m _ h

/-- Settling one lane leaves every other lane alone. -/
theorem Wb610.settleWithoutHost_lane_ne (h : m ≠ l) : (p.settleWithoutHost l).lane m = p.lane m := by
  unfold Wb610.settleWithoutHost
  split
  · rfl
  · simp only
    split
    · rw [Wb610.refuse_lane_ne _ _ _ _ h, Wb610.dropQuery_lane_ne _ _ _ h]
    · rw [Wb610.refuse_lane_ne _ _ _ _ h, Wb610.dropQuery_lane_ne _ _ _ h]
    · split
      · rw [Wb610.admitHolder_lane_ne _ _ _ _ _ h, Wb610.dropQuery_lane_ne _ _ _ h]
      · rw [Wb610.refuse_lane_ne _ _ _ _ h, Wb610.releaseHold_lane_ne _ _ _ h, Wb610.dropQuery_lane_ne _ _ _ h]

/-- The parts of the gate that a settlement does not touch. -/
abbrev Wb610.SameGate (p q : Wb610) : Prop :=
  q.settings = p.settings ∧ q.clock = p.clock ∧ q.online = p.online ∧ q.silence = p.silence

theorem Wb610.dropQuery_gate : p.SameGate (p.dropQuery l) := by
  unfold Wb610.dropQuery; split <;> exact ⟨rfl, rfl, rfl, rfl⟩

theorem Wb610.releaseHold_gate : p.SameGate (p.releaseHold l) := by
  unfold Wb610.releaseHold; split <;> exact ⟨rfl, rfl, rfl, rfl⟩

theorem Wb610.placeReport_gate (r : Report) : p.SameGate (p.placeReport r) := by
  unfold Wb610.placeReport; split <;> exact ⟨rfl, rfl, rfl, rfl⟩

theorem Wb610.refuse_gate (r : Reason) : p.SameGate (p.refuse l r) :=
  (p.modLane l (Lane.refuse p.settings)).placeReport_gate _

/-- A settlement without the host touches neither the settings, the clock, nor the link. -/
theorem Wb610.settleWithoutHost_gate : p.SameGate (p.settleWithoutHost l) := by
  have trans : ∀ {a b c : Wb610}, a.SameGate b → b.SameGate c → a.SameGate c := fun h k =>
    ⟨k.1.trans h.1, k.2.1.trans h.2.1, k.2.2.1.trans h.2.2.1, k.2.2.2.trans h.2.2.2⟩
  have drop := p.dropQuery_gate l
  unfold Wb610.settleWithoutHost
  split
  · exact ⟨rfl, rfl, rfl, rfl⟩
  · simp only
    split
    · exact trans drop (Wb610.refuse_gate _ _ _)
    · exact trans drop (Wb610.refuse_gate _ _ _)
    · split
      · exact trans drop ⟨rfl, rfl, rfl, rfl⟩
      · exact trans (trans drop (Wb610.releaseHold_gate _ _)) (Wb610.refuse_gate _ _ _)

/-! ## Link loss -/

/-- Settling lane after lane leaves a lane without a query, and the gate, as they stand. -/
theorem Wb610.foldl_settle_keeps (ls : List LaneNo) (h : (p.lane l).slot = none) :
    (ls.foldl Wb610.settleWithoutHost p).lane l = p.lane l
      ∧ p.SameGate (ls.foldl Wb610.settleWithoutHost p) := by
  induction ls generalizing p with
  | nil => exact ⟨rfl, rfl, rfl, rfl, rfl⟩
  | cons k ks ih =>
    have one : (p.settleWithoutHost k).lane l = p.lane l := by
      by_cases e : l = k
      · subst e; rw [p.settleWithoutHost_of_none l h]
      · exact p.settleWithoutHost_lane_ne k l e
    obtain ⟨hl, g1, g2, g3, g4⟩ := ih (p.settleWithoutHost k) (one ▸ h)
    obtain ⟨k1, k2, k3, k4⟩ := p.settleWithoutHost_gate k
    exact ⟨hl.trans one, g1.trans k1, g2.trans k2, g3.trans k3, g4.trans k4⟩

/-- With no silence timer running its running out does not occur. -/
theorem Wb610.silenceTimeout_of_stopped (h : p.silence = none) : p.silenceTimeout = p := by
  simp [Wb610.silenceTimeout, h]

/-- Link loss: the link is OFFLINE, no message waits, and a lane without a query, the settings and the clock stand as
they stood. -/
theorem Wb610.silenceTimeout_of_online (hs : p.silence ≠ none) (ho : p.online = true) (h : (p.lane l).slot = none) :
    (p.silenceTimeout).lane l = p.lane l ∧ p.silenceTimeout.settings = p.settings
      ∧ p.silenceTimeout.clock = p.clock ∧ p.silenceTimeout.online = false ∧ p.silenceTimeout.silence = none
      ∧ p.silenceTimeout.verifyQueue = [] := by
  obtain ⟨t, ht⟩ := Option.ne_none_iff_exists'.mp hs
  obtain ⟨off, hoff⟩ : ∃ off : Wb610, off = { p with silence := none, online := false } := ⟨_, rfl⟩
  have e : p.silenceTimeout = (off.report .link none 2 0 .none).settleAllWithoutHost := by
    simp [Wb610.silenceTimeout, ht, ho, hoff]
  have hl : off.lane l = p.lane l := by rw [hoff]; rfl
  have hg : off.settings = p.settings ∧ off.clock = p.clock ∧ off.online = false ∧ off.silence = none := by
    rw [hoff]; exact ⟨rfl, rfl, rfl, rfl⟩
  obtain ⟨told, htold⟩ : ∃ told : Wb610, told = off.report .link none 2 0 .none := ⟨_, rfl⟩
  have hl' : told.lane l = p.lane l := by rw [htold, Wb610.lane_report, hl]
  have hg' : off.SameGate told := by rw [htold]; exact off.placeReport_gate _
  obtain ⟨f0, f1, f2, f3, f4⟩ := told.foldl_settle_keeps l laneNos (hl' ▸ h)
  rw [e, ← htold]
  unfold Wb610.settleAllWithoutHost Wb610.eachLane
  generalize laneNos.foldl Wb610.settleWithoutHost told = q at f0 f1 f2 f3 f4
  exact ⟨f0.trans hl', f1.trans (hg'.1.trans hg.1), f2.trans (hg'.2.1.trans hg.2.1),
    f3.trans (hg'.2.2.1.trans hg.2.2.1), f4.trans (hg'.2.2.2.trans hg.2.2.2), rfl⟩

/-- The opening of a query finds the part of the claim, or the part after link loss (R123). -/
theorem Wb610.atOpening_cases (linkLost : Bool) :
    p.atOpening linkLost = p ∨ (linkLost = true ∧ p.atOpening linkLost = p.silenceTimeout) := by
  cases linkLost
  · exact .inl rfl
  · exact .inr ⟨rfl, rfl⟩

end Sys2Proof.Machine
end

