-- ==== Sys2Proof/Tests/Slice0.lean ====
section
/-! SUPPORT. The tests: values the spec works out, each check of the well-formedness of a command, one step of each family
on a small state, and for every obligation with hypotheses a concrete state and operands that meet them, at the
ends of their ranges. -/

namespace Sys2Proof.Tests

open Sys2Proof.Machine

-- one theorem after the other: each evaluation has a thread of its own otherwise, more than the check allows
set_option Elab.async false

/-! ## Small states -/

/-- The part after power-on. -/
def base : Wb610 := State.reset.part

/-- The part as a state, no command waiting. -/
def stateOf (p : Wb610) : State := { pending := [], part := p }

/-- A frame with tag 7. -/
def frame (ty : Byte) (payload : List Byte) : Frame := { type := ty, tag := 7, payload := payload }

/-- A state whose handler may take the one frame that waits. -/
def asked (p : Wb610) (ty : Byte) (payload : List Byte) : State :=
  stateOf { p with handler := .ready, rxBuffer := [frame ty payload] }

/-- The state after a command. -/
def after (c : Instr) (s : State) : State :=
  match exec c s with
  | .next t => t
  | .fault _ => s
  | .refused _ => s

/-- The payload of the first response that waits. -/
def answer (s : State) : List Byte := (s.part.responses.head?.map (·.payload)).getD []

/-- The kinds of the reports that wait, with their reasons and counts. -/
def told (s : State) : List (Nat × Nat × Nat) := s.part.reports.map fun r => (r.kind.code, r.reason, r.count)

/-- The part with lane 0 changed. -/
def withLane (f : Lane → Lane) : Wb610 := base.modLane 0 f

/-- The ticket of 00_scope.md: barcode 123456789012, its data digits read as an integer. -/
def ticketKey : Key := barcodeKey 12345678901

/-- The season card of 00_scope.md: CARD4 with the identity 4A 17 C0 03. -/
def cardKey4 : Key := cardKey .card4 [0x4A, 0x17, 0xC0, 0x03]

/-- A sound OUTSIDE entry in every group. -/
def ticket : Entry :=
  { key := ticketKey, cls := 3, groups := 0xFFFF, window := none, passouts := 1, verify := false
    state := .outside, lastUse := none }

/-- A ticket that lane 0 holds for a purpose. -/
def heldTicket (purpose : Purpose) (prior : Prior) : Entry :=
  { ticket with
    state := .held
      { lane := 0, purpose := purpose, prior := prior, revokePending := false, enteredElsewhere := false } }

/-- A table of one entry. -/
def tableOf (e : Entry) : Table := Table.empty.append e

/-- The ticket as lane 0 reads it. -/
def scan : Presentation := { key := ticketKey, source := .barcode 2 }

/-- The card as the bus reads it. -/
def cardScan : Presentation := { key := cardKey4, source := .bus }

/-- An open gate: clock 600, supply GOOD, link ONLINE, one ticket in the table, lane 0 as given. -/
def gate (e : Entry) (f : Lane → Lane) : Wb610 :=
  { base with clock := some 600, supply := .good, online := true, table := tableOf e }.modLane 0 f

/-- Lane 0 with the ticket in CURRENT, in a state. -/
def busy (st : LaneState) (x : Lane) : Lane := { x with state := st, current := some scan }

/-- The gate with lane 0 admitted for the ticket it holds. -/
def admittedGate (st : LaneState) (purpose : Purpose) (prior : Prior) : Wb610 :=
  gate (heldTicket purpose prior) fun x => { busy st x with hold := some ticketKey }

/-- A query of lane 0 for the ticket. -/
def query (cause : QueryCause) (purpose : Purpose) : Query :=
  { tag := 5, key := ticketKey, purpose := purpose, cause := cause, deadline := 9 }

/-- The VERIFY message of that query. -/
def message (cause : QueryCause) (purpose : Purpose) : VerifyMessage :=
  { tag := 5, lane := 0, purpose := purpose, key := ticketKey, cause := cause }

/-- The gate with lane 0 VERIFYING the ticket. -/
def askingGate (e : Entry) (cause : QueryCause) (purpose : Purpose) (hold : Option Key) : Wb610 :=
  { gate e fun x => { busy .verifying x with hold := hold, slot := some (query cause purpose) } with
    verifyQueue := [message cause purpose] }

/-- A table whose bucket 1,002 is full. -/
def fullTable : Table :=
  Table.empty.setBucket 1002
    { Bucket.empty with entries := List.replicate 32 { ticket with key := cardKey4 } }
/-- A table whose bucket 1,002 is SUSPECT. -/
def suspectTable : Table := Table.empty.setBucket 1002 { Bucket.empty with suspect := true }

/-- A report of no consequence. -/
def note : Report := { kind := .supply, lane := none, time := none, reason := 1, count := 0, key := .none }

/-! ## Values the spec works out -/

theorem test_bucket_of_ticket : bucketOf ticketKey = 1002 := by decide
theorem test_bucket_of_card : bucketOf cardKey4 = 2582 := by decide
theorem test_check_digit_of_ticket : checkDigitOf 12345678901 = 2 := by decide
theorem test_check_digit_of_line : checkDigitOf 9310487256 = 7 := by decide
theorem test_crc_of_nine_digits :
    crc16 [0x31, 0x32, 0x33, 0x34, 0x35, 0x36, 0x37, 0x38, 0x39] = 0x29B1#16 := by decide +kernel
theorem test_key_bytes : ticketKey.tenBytes = [0, 0, 0, 0, 0, 2, 0xDF, 0xDC, 0x1C, 0x35] := by decide
theorem test_poll_bytes : pollBytes 5 = [0xC3, 5, 0x50] := by decide
theorem test_no_word : decodeTableWord 16 0xFFFF = none := rfl
theorem test_fetch_word : State.reset.withFetchWord 8 0 = State.reset := rfl

/-! ## Well-formed commands: one ill-formed term for each check -/

/-- Values a memory fault may leave. -/
def sound : Disturbance :=
  { cls := 0, groups := 0, window := some { fromMinute := 0, untilMinute := 4319 }, verify := true
    lastUse := some { lane := .elsewhere, time := 259199 }, expiry := 273599 }

theorem test_wf_sound : (Instr.memoryFault 0 (List.replicate 32 sound) 0).wellFormed = true := by decide
theorem test_wf_too_many : (Instr.memoryFault 0 (List.replicate 33 sound) 0).wellFormed = false := by decide
theorem test_wf_window_order :
    (Instr.memoryFault 0 [{ sound with window := some { fromMinute := 2, untilMinute := 1 } }] 0).wellFormed
      = false := by decide
theorem test_wf_window_end :
    (Instr.memoryFault 0 [{ sound with window := some { fromMinute := 0, untilMinute := 4320 } }] 0).wellFormed
      = false := by decide
theorem test_wf_last_use :
    (Instr.memoryFault 0 [{ sound with lastUse := some { lane := .lane 0, time := 259200 } }] 0).wellFormed
      = false := by decide
theorem test_wf_expiry : (Instr.memoryFault 0 [{ sound with expiry := 273600 }] 0).wellFormed = false := by decide

/-! ## One step of each family -/

theorem test_idle : step State.reset = .next { State.reset with part := State.reset.part.tick } := rfl
theorem test_ping : answer (after .ping (asked base 1 [])) = [0, 2, 0xFF, 0xFF, 0xFF, 0xFF, 0, 0, 0, 0] := by decide
theorem test_unknown_type : answer (after .unknownType (asked base 0x99 [1])) = [1, 0x99] := by decide
theorem test_time_set : (after .timeSet (asked base 4 [0, 0, 2, 0x58])).part.clock = some 600 := by decide
theorem test_lane_open_not_ready : answer (after .laneOpen (asked base 0x11 [0])) = [3] := by decide
theorem test_judge_ticket : judge (gate ticket id).view .powerOn (tableOf ticket) scan = .admitHolder .entry false := by
  decide
theorem test_judge_check_digit :
    judge (gate ticket id).view .powerOn (tableOf ticket) { scan with source := .barcode 3 } = .refuse .badCode := by
  decide
theorem test_admit_window_expiry :
    told (after (.admitWindowExpiry 0) (stateOf (admittedGate (.released 1) .entry .outside)))
      = [(1, 1, 0), (3, 0, 0)] := by decide
theorem test_first_step_forward :
    ((after (.rotorLineChange 0 true false) State.reset).part.lane 0).rotor.offset = 1 := by decide
theorem test_barcode_digit :
    ((after (.barcodeCharacter 0 0x31 false) State.reset).part.lane 0).port.buffer = [0x31] := by decide
theorem test_sweep_pointer : (after .sweepVisit State.reset).part.sweepPointer = 1 := by decide
theorem test_supply : told (after (.supplySample 240) State.reset) = [(1, 1, 0), (20, 1, 240)] := by decide
theorem test_start_is_sent_online :
    (after .transmitArbiter (stateOf { base with online := true })).part.handler = .ready := by decide
theorem test_hunting : (after (.receiverByte 0xA5 false) State.reset).part.receiver = .receiving [] 10240 := by decide

/-! ## The hypotheses of the obligations are met: one theorem for each obligation that has any -/

theorem witness_StepTakesFrontCommand : ({ State.reset with pending := [.ping] } : State).pending = .ping :: [] := rfl

theorem witness_IdleStepCountsTimersDown : State.reset.pending = [] := rfl

theorem witness_TableWritesReadBack :
    (tableOf ticket).Sound ∧ (0 < 4096 ∧ 4095 < 4096 ∧ 1002 < 4096)
      ∧ (∀ e : Entry, e.spend.key = e.key) ∧ cardKey4 ≠ ticketKey := by
  refine ⟨by decide +kernel, by decide, fun _ => rfl, by decide⟩

theorem witness_ReportJoinsOrIsCounted :
    base.reports.length < 128 ∧ (List.replicate 127 note).length < 128
      ∧ 128 ≤ (List.replicate 128 note).length := by decide +kernel

theorem witness_RequestsAreTakenAndChecked :
    State.reset.part.rxBuffer = [] ∧ State.reset.part.handler ≠ .ready
      ∧ (some (Request.load 0 [] [])).isSome ∧ 4 ≤ (List.replicate 4 (frame 0 [])).length
      ∧ (asked base 0x77 []).Takes (frame 0x77 []) [] ∧ (asked base 0x01 [0]).Takes (frame 0x01 [0]) []
      ∧ (frame 0x01 [0]).payload.length ≠ 0
      ∧ (asked base 0x13 [0, 4, 0, 0]).Takes (frame 0x13 [0, 4, 0, 0]) []
      ∧ (frame 0x13 [0, 4, 0, 0]).payload[1]? = some 4
      ∧ (after .laneTestTone (asked base 0x13 [0, 4, 0, 0])) = asked base 0x13 [0, 4, 0, 0]
      ∧ (frame 0x23 (List.replicate 11 0 ++ [2, 0, 0, 0, 0])).payload[11]? = some 2
      ∧ ({ base with request := some (.status 7 []) } : Wb610).request = some (.status 7 []) := by decide +kernel

theorem witness_PingAnswersTheGate : (asked base 0x01 []).Takes (frame 0x01 []) [] := by decide

/-- Lane 0 asking the host, its STATUS READ begun with the lane's controller alone. -/
def halfRead : State :=
  after (.statusRead [.laneController 0]) (asked (askingGate ticket .unknown .entry none) 0x02 [])

theorem witness_StatusReadShowsEveryBlock :
    (asked base 0x02 []).Takes (frame 0x02 []) []
      ∧ halfRead.part.request = some (.status 7 (List.replicate 8 none ++ [some [2, 0, 0, 1]] ++ List.replicate 59 none))
      ∧ (answer (after .statusRead (asked base 0x02 []))).length = 193 := by decide +kernel

/-- R190: the blocks are not read at one instant: a lane shown VERIFYING with its slot, read later, empty. -/
theorem test_status_read_in_turn :
    let t := after .statusRead (after (.verifyDeadlineExpiry 0) halfRead)
    t.part.request = none ∧ ((answer t).drop 23).take 4 = [2, 0, 0, 1] ∧ ((answer t).drop 36).take 2 = [0xFF, 0] := by
  decide +kernel

/-- The settings at the low and at the high end of every range, one past an end, and the two sides of 259,199. -/
theorem witness_SettingsAndClockAreSet :
    (asked base 0x03 [2, 5, 5, 5, 2, 0, 200, 1, 5, 0, 4, 1]).Takes
        (frame 0x03 [2, 5, 5, 5, 2, 0, 200, 1, 5, 0, 4, 1]) []
      ∧ answer (after .gateConfigure (asked base 0x03 [2, 5, 5, 5, 2, 0, 200, 1, 5, 0, 4, 1])) = [0]
      ∧ answer (after .gateConfigure (asked base 0x03 [30, 50, 60, 100, 20, 11, 184, 60, 240, 1, 0, 2])) = [0]
      ∧ answer (after .gateConfigure (asked base 0x03 [31, 50, 60, 100, 20, 11, 184, 60, 240, 1, 0, 2])) = [2]
      ∧ (asked base 0x04 [0, 3, 0xF4, 0x7F]).Takes (frame 0x04 [0, 3, 0xF4, 0x7F]) []
      ∧ fieldAt [0, 3, 0xF4, 0x7F] 0 4 = 259199 ∧ fieldAt [0, 3, 0xF4, 0x80] 0 4 = 259200 := by decide

/-- A journal of one record, numbered 5. -/
def oneRecord : Wb610 :=
  { base with
    nextSequence := 6
    journal :=
      [{ sequence := 5, time := 0, lane := 0, purpose := .entry, key := ticketKey, cls := 0, revoked := false
         double := false, verified := false, offlineAdmit := false }] }

theorem witness_JournalReadLocatesByDistance :
    (asked oneRecord 0x40 [0, 0, 0, 5, 1]).Takes (frame 0x40 [0, 0, 0, 5, 1]) []
      ∧ (asked base 0x40 [1]).Takes (frame 0x40 [1]) []
      ∧ oneRecord.journal ≠ [] ∧ base.journal = []
      ∧ sequenceDistance 6 5 = 1 ∧ sequenceDistance 6 6 = 0 ∧ sequenceDistance 6 4 = 2
      ∧ sequenceDistance 6 2147483653 = 2147483648 ∧ sequenceDistance 6 2147483654 = 2147483647 := by decide

theorem witness_CountersReadLaneByLane :
    (asked base 0x41 [1]).Takes (frame 0x41 [1]) [] ∧ (asked base 0x41 [2]).Takes (frame 0x41 [2]) []
      ∧ (asked base 0x41 [3]).Takes (frame 0x41 [3]) [] ∧ (base.lane 9).OutputsFollow
      ∧ ({ base with request := some (.counters 7 true (9 :: []) [2]) } : Wb610).request
        = some (.counters 7 true (9 :: []) [2]) := by decide

theorem witness_RestartStartsAfresh :
    (asked base 0x50 []).Takes (frame 0x50 []) [] ∧ (base.lane 0).OutputsFollow := by decide +kernel

theorem witness_EarlyStepsOfJudgement :
    base.view.supply ≠ .good ∧ (gate ticket id).view.supply = .good ∧ 3 ≠ checkDigitOf scan.key.bytes.toNat
      ∧ 2 = checkDigitOf scan.key.bytes.toNat ∧ (Table.empty.bucket (bucketOf scan.key)).suspect = false
      ∧ Table.empty.find scan.key = none
      ∧ (suspectTable.bucket (bucketOf scan.key)).suspect
      ∧ (tableOf ticket).find scan.key = some ticket
      ∧ (tableOf (heldTicket .entry .outside)).find scan.key = some (heldTicket .entry .outside)
      ∧ (tableOf { ticket with state := .void }).find scan.key = some { ticket with state := .void }
      ∧ (tableOf { ticket with state := .spent }).find scan.key = some { ticket with state := .spent }
      ∧ ({ ticket with groups := 0xFFFE } : Entry).groups.getLsbD LaneConfig.powerOn.group.val = false
      ∧ (∀ d ∈ List.replicate 18 9, d ≤ 9) ∧ (List.replicate 18 9).length ≤ 18 := by decide +kernel

theorem witness_EntryLaneJudgesWindowThenState :
    (gate ticket id).view.supply = .good ∧ 2 = checkDigitOf scan.key.bytes.toNat
      ∧ ((tableOf ticket).bucket (bucketOf scan.key)).suspect = false
      ∧ (tableOf ticket).find scan.key = some ticket ∧ LaneConfig.powerOn.direction = .entry
      ∧ (gate ticket id).view.clock = some 600 ∧ ticket.groups.getLsbD LaneConfig.powerOn.group.val = true
      ∧ ticket.state.hold = none ∧ ticket.state ≠ .void ∧ ticket.state ≠ .spent
      ∧ (600 / 60 < 11 ∧ 10 ≤ 600 / 60 ∧ 9 < 600 / 60) ∧ (600 ≤ 600 ∧ 600 < 601)
      ∧ (tableOf { ticket with state := .outOnPassout 600 }).find scan.key
        = some { ticket with state := .outOnPassout 600 }
      ∧ (tableOf { ticket with state := .inside }).find scan.key = some { ticket with state := .inside } := by
  decide +kernel

theorem witness_ExitLaneJudgesStateAndPassouts :
    (gate ticket id).view.supply = .good ∧ 2 = checkDigitOf scan.key.bytes.toNat
      ∧ ((tableOf ticket).bucket (bucketOf scan.key)).suspect = false
      ∧ (tableOf ticket).find scan.key = some ticket
      ∧ ticket.groups.getLsbD ({ LaneConfig.powerOn with direction := .exit } : LaneConfig).group.val = true
      ∧ (tableOf { ticket with state := .inside }).find scan.key = some { ticket with state := .inside }
      ∧ 1 ≤ ticket.passouts.val ∧ ({ ticket with passouts := 0 } : Entry).passouts.val = 0
      ∧ (tableOf { ticket with state := .outOnPassout 0 }).find scan.key
        = some { ticket with state := .outOnPassout 0 } := by decide +kernel

/-- Lane 0 in IDLE with the ticket just taken into CURRENT, in front of one entry. -/
def claiming (e : Entry) : Wb610 := gate e (busy .idle)

theorem witness_ClaimOutcomeMovesTheLane :
    ((claiming ticket).lane 0).OutputsFollow ∧ ((claiming ticket).lane 0).state = .idle
      ∧ ((claiming ticket).lane 0).current = some scan
      ∧ judge (claiming ticket).view .powerOn (tableOf ticket) scan = .admitHolder .entry false
      ∧ judge base.view .powerOn (tableOf ticket) scan = .refuse .lowSupply
      ∧ judge (claiming ticket).view .powerOn (tableOf { ticket with state := .outOnPassout 600 }) scan
        = .spendAndRefuse
      ∧ judge (claiming ticket).view .powerOn Table.empty scan = .verifyUnheld .unknown .entry
      ∧ judge (claiming ticket).view .powerOn (tableOf { ticket with verify := true }) scan = .verifyFlagged
      ∧ (claiming ticket).silence ≠ none ∧ ((claiming ticket).lane 0).slot = none
      ∧ ({ claiming ticket with silence := none } : Wb610).silence = none
      ∧ (claiming ticket).settings.offlinePolicy = .admitLocal
      ∧ ({ base.settings with offlinePolicy := .refuse } : Settings).offlinePolicy = .refuse := by
  decide +kernel

theorem witness_HoldCycleOfAnEntry :
    ticket.state = .outside ∧ ({ ticket with state := .outOnPassout 1 } : Entry).state = .outOnPassout 1
      ∧ (heldTicket .entry .outside).state.hold.isSome ∧ (heldTicket .passout .inside).state.hold.isSome := by
  decide

theorem witness_LanesAreConfiguredAndOpened :
    (asked base 0x10 [9, 2, 15, 2, 1, 1]).Takes (frame 0x10 [9, 2, 15, 2, 1, 1]) []
      ∧ (base.lane 9).state = .closed .restart
      ∧ answer (after .laneConfigure (asked base 0x10 [9, 2, 15, 2, 1, 1])) = [0]
      ∧ answer (after .laneConfigure (asked base 0x10 [10, 2, 15, 2, 1, 1])) = [2]
      ∧ answer (after .laneConfigure (asked base 0x10 [9, 1, 15, 2, 1, 1])) = [2]
      ∧ (asked (gate ticket id) 0x11 [0]).Takes (frame 0x11 [0]) []
      ∧ (gate ticket id).clock ≠ none ∧ (gate ticket id).supply ≠ .unknown ∧ base.clock = none
      ∧ answer (after .laneOpen (asked (gate ticket id) 0x11 [9])) = [0]
      ∧ answer (after .laneOpen (asked (gate ticket id) 0x11 [10])) = [2]
      ∧ answer (after .laneOpen (asked (claiming ticket) 0x11 [0])) = [4] := by decide +kernel

theorem witness_LaneCloseByState :
    (asked base 0x12 [9]).Takes (frame 0x12 [9]) [] ∧ (base.lane 9).OutputsFollow
      ∧ (base.lane 9).state = .closed .restart
      ∧ answer (after .laneClose (asked base 0x12 [10])) = [2]
      ∧ answer (after .laneClose (asked (withLane fun x => { x with state := .test .host }) 0x12 [0])) = [0]
      ∧ answer (after .laneClose (asked (withLane fun x => { x with state := .idle }) 0x12 [0])) = [0]
      ∧ answer (after .laneClose (asked (admittedGate (.released 1) .entry .outside) 0x12 [0])) = [0]
      ∧ answer (after .laneClose (asked (askingGate ticket .unknown .entry none) 0x12 [0])) = [0]
      ∧ answer (after .laneClose
          (asked (askingGate (heldTicket .entry .outside) .flagged .entry (some ticketKey)) 0x12 [0])) = [0]
      ∧ answer (after .laneClose (asked (admittedGate (.passing 1) .entry .outside) 0x12 [0])) = [10] := by
  decide +kernel

/-- The four actions at the ends of their parameters, and one past an end. -/
theorem witness_LaneTestTakesItsAction :
    (asked base 0x13 [9, 1, 0x13, 0x88]).Takes (frame 0x13 [9, 1, 0x13, 0x88]) []
      ∧ answer (after .laneTestRelease (asked base 0x13 [9, 1, 0x13, 0x88])) = [0, 0]
      ∧ answer (after .laneTestRelease (asked base 0x13 [9, 1, 0x13, 0x89])) = [2]
      ∧ answer (after .laneTestSignal (asked base 0x13 [0, 2, 0, 5])) = [0, 0]
      ∧ answer (after .laneTestTone (asked base 0x13 [0, 3, 0, 4])) = [0, 0]
      ∧ answer (after .laneTestOffset (asked base 0x13 [0, 4, 0, 0])) = [0, 0]
      ∧ answer (after .laneTestOffset
          (asked (withLane fun x => { x with state := .test .host, rotor := { x.rotor with offset := -3 } })
            0x13 [0, 4, 0, 0])) = [0, 0xFD]
      ∧ answer (after .laneTestOffset (asked (claiming ticket) 0x13 [0, 4, 0, 0])) = [4]
      ∧ answer (after .laneTestOffset (asked (claiming ticket) 0x13 [0, 4, 0, 1])) = [2]
      ∧ answer (after .laneTestTone (asked base 0x13 [0, 0, 0, 1])) = [2]
      ∧ answer (after .laneTestTone (asked base 0x13 [0, 5, 0, 1])) = [2] := by decide +kernel

/-- REMOTE PRESENT of the card at lane 0, whose card source is REMOTE, in a state. -/
def presented (f : Lane → Lane) : State :=
  asked (gate ticket fun x => f { x with config := { x.config with cardSource := .remote } }) 0x31
    (0 :: cardKey4.record)

/-- R123: the silence timer runs out between the claim and the opening of its query: the LINK report, then the query
settled at once as NO_VERDICT with its counter advanced; otherwise the query is opened and waits. -/
theorem test_query_opened_offline :
    let s := presented fun x => { x with state := .idle }
    let t := after (.remotePresent true) s
    let u := after .remotePresent s
    answer t = [13] ∧ t.part.online = false ∧ told t = [(1, 1, 0), (21, 2, 0), (2, 16, 0)]
      ∧ (t.part.lane 0).state = .refusing 768000 ∧ (t.part.lane 0).queryCounter = 1 ∧ (t.part.lane 0).slot = none
      ∧ answer u = [13] ∧ u.part.online = true ∧ (u.part.lane 0).state = .verifying
      ∧ (u.part.lane 0).queryCounter = 1 ∧ u.part.verifyQueue.length = 1 := by decide +kernel

/-- R123, R132: a FLAGGED query opened OFFLINE follows the offline policy. -/
theorem test_flagged_query_opened_offline :
    let p := claiming { ticket with verify := true }
    let q := p.claim 0 scan true
    let r := { p with settings := { p.settings with offlinePolicy := .refuse } }.claim 0 scan true
    (q.lane 0).offlineAdmit = true ∧ (q.lane 0).hold = some ticketKey ∧ (q.lane 0).queryCounter = 1
      ∧ (r.lane 0).hold = none ∧ r.table.find ticketKey = some { ticket with verify := true }
      ∧ told (stateOf r) = [(1, 1, 0), (21, 2, 0), (2, 16, 0)] := by decide +kernel

theorem witness_ArrivalsByLaneState :
    (presented id).Takes (frame 0x31 (0 :: cardKey4.record)) [] ∧ cardKey4.kind ≠ .barcode
      ∧ cardKey4.paddingZero = true
      ∧ answer (after .remotePresent (asked base 0x31 (0 :: 0 :: beBytes 10 0))) = [2]
      ∧ answer (after .remotePresent (asked base 0x31 (0 :: 5 :: beBytes 10 0))) = [2]
      ∧ answer (after .remotePresent (asked base 0x31 (10 :: cardKey4.record))) = [2]
      ∧ answer (after .remotePresent (asked base 0x31 (0 :: cardKey4.record))) = [2]
      ∧ answer (after .remotePresent (presented id)) = [4]
      ∧ answer (after .remotePresent (presented fun x => { x with state := .free .wasOpen })) = [4]
      ∧ answer (after .remotePresent (presented fun x => { x with state := .idle })) = [13]
      ∧ answer (after .remotePresent (presented (busy (.released 1)))) = [13]
      ∧ answer (after .remotePresent (presented fun x => { x with state := .released 1, current := some cardScan }))
        = [14]
      ∧ answer (after .remotePresent
          (presented fun x => { busy (.passing 1) x with closePending := some .host })) = [13] := by decide +kernel

theorem witness_AdmittedLaneTimersExpire :
    let p := admittedGate (.released 0) .entry .outside
    let q := admittedGate (.passing 0) .passout .inside
    (p.lane 0).OutputsFollow ∧ (p.lane 0).state = .released 0 ∧ (p.lane 0).hold = some ticketKey
      ∧ (p.lane 0).current = some scan ∧ (p.lane 0).next = none
      ∧ (q.lane 0).OutputsFollow ∧ (q.lane 0).state = .passing 0 ∧ (q.lane 0).closePending = none
      ∧ ((p.modLane 0 fun x => { x with next := some { presentation := cardScan, age := some 1 } }).lane 0).next
        = some { presentation := cardScan, age := some 1 }
      ∧ ((q.modLane 0 fun x => { x with closePending := some .host }).lane 0).closePending = some .host := by
  decide +kernel

theorem witness_RefusalDisplayAndSmallTimersExpire :
    let x : Lane :=
      { busy (.refusing 0) (base.lane 0) with
        next := some { presentation := cardScan, age := some 0 }
        repeatMemory := some { key := ticketKey, timer := some 0 }, testRelease := some 0
        signals := { SignalUnit.fresh with tone := some { pattern := .accept, left := 0 } } }
    let y := ((base.setLane 0 x).lane 0)
    y.OutputsFollow ∧ y.state = .refusing 0 ∧ y.next = some { presentation := cardScan, age := some 0 }
      ∧ y.repeatMemory = some { key := ticketKey, timer := some 0 } ∧ y.testRelease = some 0
      ∧ y.signals.tone = some { pattern := .accept, left := 0 }
      ∧ ((askingGate ticket .unknown .entry none).lane 0).signals.flash = some { lit := true, left := 256000 } := by
  decide +kernel

theorem witness_VerdictUnmatchedOrRefused :
    let p := askingGate ticket .unknown .entry none
    let q := askingGate (heldTicket .entry .outside) .flagged .entry (some ticketKey)
    (asked p 0x30 [5, 2, 0]).Takes (frame 0x30 [5, 2, 0]) [] ∧ (p.lane 0).OutputsFollow
      ∧ (p.lane 0).state = .verifying ∧ (p.lane 0).slot = some (query .unknown .entry)
      ∧ (query .unknown .entry).tag = (5 : Byte).toNat ∧ (query .unknown .entry).tag / 16 = (0 : LaneNo).val
      ∧ (p.lane 0).current = some scan ∧ (p.lane 0).hold = none ∧ (q.lane 0).hold = some ticketKey
      ∧ answer (after .verdict (asked p 0x30 [5, 2, 0])) = [0, 0, 15]
      ∧ answer (after .verdict (asked q 0x30 [5, 2, 0])) = [0, 0, 15]
      ∧ (asked p 0x30 (5 :: 2 :: 1 :: ticket.record)).Takes (frame 0x30 (5 :: 2 :: 1 :: ticket.record)) []
      ∧ answer (after .verdict (asked p 0x30 (5 :: 2 :: 1 :: ticket.record))) = [0, 0, 15]
      ∧ answer (after .verdict (asked p 0x30 [5, 3, 0])) = [1]
      ∧ answer (after .verdict (asked p 0x30 [160, 2, 0])) = [9]
      ∧ answer (after .verdict (asked p 0x30 [159, 2, 0])) = [9] := by decide +kernel

theorem witness_VerdictAdmitsFlagged :
    let p := askingGate (heldTicket .entry .outside) .flagged .entry (some ticketKey)
    (asked p 0x30 [5, 1, 0]).Takes (frame 0x30 [5, 1, 0]) [] ∧ (p.lane 0).OutputsFollow
      ∧ (p.lane 0).state = .verifying ∧ (p.lane 0).slot = some (query .flagged .entry)
      ∧ (query .flagged .entry).cause = .flagged ∧ (p.lane 0).current = some scan
      ∧ answer (after .verdict (asked p 0x30 [5, 1, 0])) = [0, 0, 0] := by decide +kernel

/-- The UNKNOWN query of lane 0 in front of a table. -/
def asking (t : Table) (purpose : Purpose) : Wb610 :=
  { askingGate ticket .unknown purpose none with table := t }

theorem witness_VerdictAdmitInsertsEntry :
    let p := asking Table.empty .entry
    ticket.record.length = 32 ∧ entryOfRecord ticket.record = some ticket
      ∧ (asked p 0x30 (5 :: 1 :: 1 :: ticket.record)).Takes (frame 0x30 (5 :: 1 :: 1 :: ticket.record)) []
      ∧ (p.lane 0).OutputsFollow ∧ (p.lane 0).hold = none
      ∧ (p.lane 0).slot = some (query .unknown .entry) ∧ (query .unknown .entry).cause ≠ .flagged
      ∧ answer (after .verdict (asked p 0x30 (5 :: 1 :: 1 :: ticket.record))) = [0, 0, 0]
      ∧ answer (after .verdict (asked p 0x30 [5, 1, 0])) = [2]
      ∧ answer (after .verdict (asked (asking (tableOf ticket) .entry) 0x30 (5 :: 1 :: 1 :: ticket.record)))
        = [0, 0, 4]
      ∧ answer (after .verdict
          (asked (asking suspectTable .entry) 0x30
            (5 :: 1 :: 1 :: ticket.record))) = [0, 0, 17]
      ∧ answer (after .verdict
          (asked (asking fullTable .entry) 0x30 (5 :: 1 :: 1 :: ticket.record))) = [0, 0, 17] := by
  decide +kernel

theorem witness_QueriesSettleWithoutTheHost :
    let p := askingGate ticket .unknown .entry none
    let q := askingGate (heldTicket .entry .outside) .flagged .entry (some ticketKey)
    (base.lane 0).slot = none ∧ (p.lane 0).OutputsFollow ∧ (p.lane 0).state = .verifying
      ∧ (p.lane 0).slot = some (query .unknown .entry) ∧ (p.lane 0).current = some scan
      ∧ (q.lane 0).slot = some (query .flagged .entry) ∧ q.settings.offlinePolicy = .admitLocal
      ∧ ({ q.settings with offlinePolicy := .refuse } : Settings).offlinePolicy = .refuse
      ∧ (q.lane 0).hold = some ticketKey
      ∧ base.silence ≠ none ∧ base.online = false ∧ p.silence ≠ none ∧ p.online = true := by decide +kernel

/-- A load in progress of one record. -/
def loading (t : Table) (record : List Byte) : Wb610 :=
  { base with table := t, request := some (.load 7 [record] []) }

theorem witness_TableLoadTakesEachRecord :
    (loading Table.empty ticket.record).request = some (.load 7 (ticket.record :: []) [])
      ∧ answer (after .tableLoadRecord (stateOf (loading Table.empty ticket.record))) = [0, 1, 0]
      ∧ answer (after .tableLoadRecord (stateOf (loading Table.empty []))) = [11, 1, 2]
      ∧ answer (after .tableLoadRecord (stateOf (loading (tableOf ticket) ticket.record))) = [0, 1, 0]
      ∧ answer (after .tableLoadRecord (stateOf (loading (tableOf (heldTicket .entry .outside)) ticket.record)))
        = [11, 1, 5]
      ∧ answer (after .tableLoadRecord
          (stateOf (loading suspectTable ticket.record)))
        = [11, 1, 7]
      ∧ answer (after .tableLoadRecord
          (stateOf (loading fullTable ticket.record))) = [11, 1, 6] := by decide +kernel

/-- A deletion in progress of one key. -/
def deleting (t : Table) (piece : List Byte) : Wb610 :=
  { base with table := t, request := some (.delete 7 [piece] []) }
/-- A revocation in progress of one key. -/
def revoking (t : Table) (piece : List Byte) : Wb610 :=
  { base with table := t, request := some (.revoke 7 [piece] []) }

theorem witness_DeleteAndRevokeTakeEachKey :
    (deleting Table.empty ticketKey.record).request = some (.delete 7 (ticketKey.record :: []) [])
      ∧ (revoking Table.empty ticketKey.record).request = some (.revoke 7 (ticketKey.record :: []) [])
      ∧ keyAt ticketKey.record 0 = some ticketKey ∧ keyAt [0] 0 = none
      ∧ answer (after .tableDeleteKey (stateOf (deleting Table.empty ticketKey.record))) = [0, 1, 8]
      ∧ answer (after .tableDeleteKey (stateOf (deleting (tableOf ticket) ticketKey.record))) = [0, 1, 0]
      ∧ answer (after .tableDeleteKey
          (stateOf (deleting (tableOf (heldTicket .entry .outside)) ticketKey.record))) = [0, 1, 5]
      ∧ answer (after .tableRevokeKey (stateOf (revoking (tableOf ticket) ticketKey.record))) = [0, 1, 0]
      ∧ answer (after .tableRevokeKey
          (stateOf (revoking (tableOf (heldTicket .entry .outside)) ticketKey.record))) = [0, 1, 5]
      ∧ (asked base 0x21 (1 :: ticketKey.record)).Takes (frame 0x21 (1 :: ticketKey.record)) []
      ∧ (asked base 0x22 []).Takes (frame 0x22 []) []
      ∧ answer (after .tableLoad (asked base 0x20 [17])) = [1]
      ∧ answer (after .tableRevoke (asked base 0x22 [33])) = [1]
      ∧ (after .tableDelete (asked base 0x21 (1 :: ticketKey.record))).part.request.isSome := by decide +kernel

theorem witness_UseUpdatesByEntryState :
    (asked (gate ticket id) 0x23 (ticketKey.record ++ [1, 0, 3, 0xF4, 0x7F])).Takes
        (frame 0x23 (ticketKey.record ++ [1, 0, 3, 0xF4, 0x7F])) []
      ∧ ((((0 : Byte).toNat * 256 + (3 : Byte).toNat) * 256 + (0xF4 : Byte).toNat) * 256 + (0x7F : Byte).toNat) = 259199
      ∧ ((((0 : Byte).toNat * 256 + (4 : Byte).toNat) * 256 + (0x2C : Byte).toNat) * 256 + (0xBF : Byte).toNat) = 273599
      ∧ answer (after .enteredElsewhere (asked (gate ticket id) 0x23 (ticketKey.record ++ [1, 0, 3, 0xF4, 0x7F])))
        = [0]
      ∧ answer (after .enteredElsewhere (asked (gate ticket id) 0x23 (ticketKey.record ++ [1, 0, 3, 0xF4, 0x80])))
        = [2]
      ∧ answer (after .enteredElsewhere (asked (gate (heldTicket .entry .outside) id) 0x23
          (ticketKey.record ++ [1, 0, 0, 0, 0]))) = [5]
      ∧ answer (after .passedOutElsewhere (asked (gate ticket id) 0x23
          (ticketKey.record ++ [2, 0, 4, 0x2C, 0xBF]))) = [0]
      ∧ answer (after .passedOutElsewhere (asked (gate ticket id) 0x23
          (ticketKey.record ++ [2, 0, 4, 0x2C, 0xC0]))) = [2]
      ∧ answer (after .passedOutElsewhere (asked (gate { ticket with state := .void } id) 0x23
          (ticketKey.record ++ [2, 0, 0, 0, 0]))) = [4]
      ∧ answer (after .passedOutElsewhere (asked base 0x23 (ticketKey.record ++ [2, 0, 0, 0, 0]))) = [8]
      ∧ answer (after .enteredElsewhere (asked base 0x23 (5 :: ticketKey.tenBytes ++ [1, 0, 0, 0, 0]))) = [2]
      ∧ answer (after .passedOutElsewhere (asked base 0x23 (0 :: ticketKey.tenBytes ++ [2, 0, 0, 0, 0]))) = [2]
      ∧ answer (after .passedOutElsewhere (asked base 0x23 (ticketKey.record ++ [3, 0, 0, 0, 0]))) = [2] := by
  decide +kernel

/-- Positions 31 and counts 16 are the last allowed, bucket 4,095 the last there is. -/
theorem witness_TableReadsShowEntries :
    (asked (gate ticket id) 0x24 ticketKey.record).Takes (frame 0x24 ticketKey.record) []
      ∧ (gate ticket id).table.find ticketKey = some ticket ∧ base.table.find ticketKey = none
      ∧ (asked base 0x25 [0x0F, 0xFF, 31, 16]).Takes (frame 0x25 [0x0F, 0xFF, 31, 16]) []
      ∧ answer (after .tableReadByBucket (asked base 0x25 [0x0F, 0xFF, 31, 16]))
        = [0, 0x0F, 0xFF, 0, 0, 0xFF, 0xFF]
      ∧ answer (after .tableReadByKey (asked base 0x24 (5 :: ticketKey.tenBytes))) = [2]
      ∧ answer (after .tableReadByBucket (asked base 0x25 [0x10, 0, 31, 16])) = [2]
      ∧ answer (after .tableReadByBucket (asked base 0x25 [0, 0, 32, 16])) = [2]
      ∧ answer (after .tableReadByBucket (asked base 0x25 [0, 0, 0, 17])) = [2] := by decide +kernel

theorem witness_ClearingRequestsEmptyBuckets :
    (asked (gate ticket id) 0x26 [3, 0xEA]).Takes (frame 0x26 [3, 0xEA]) []
      ∧ answer (after .bucketClear (asked (gate ticket id) 0x26 [3, 0xEA])) = [0, 1]
      ∧ answer (after .bucketClear (asked (gate (heldTicket .entry .outside) id) 0x26 [3, 0xEA])) = [5]
      ∧ answer (after .bucketClear (asked base 0x26 [0x10, 0])) = [2]
      ∧ (asked base 0x27 []).Takes (frame 0x27 []) []
      ∧ answer (after .tableClear (asked base 0x27 [])) = [0] ∧ (asked base 0x27 []).part.AdmissionsSound
      ∧ answer (after .tableClear (asked (claiming ticket) 0x27 [])) = [4] := by decide +kernel

theorem witness_EntryRecordsReadBack :
    let e : Entry :=
      { ticket with
        state := .outOnPassout 273599, window := some { fromMinute := 4319, untilMinute := 4319 }
        lastUse := some { lane := .lane 9, time := 259199 } }
    e.key.paddingZero = true ∧ e.state.hold = none ∧ entryOfRecord e.record = some e ∧ e.record.length = 32
      ∧ (4319 < 65536 ∧ 273599 < 4294967296 ∧ 259199 < 4294967296) := by
  decide +kernel

/-- R194: the last 14 bytes of the record of a HELD entry: passouts, marks, state 6, lane, hold byte, prior expiry. -/
theorem test_held_entry_record :
    ({ ticket with
        verify := true
        state := .held
          { lane := 9, purpose := .passout, prior := .outOnPassout 600, revokePending := true
            enteredElsewhere := true } } : Entry).record.drop 18
      = [1, 7, 6, 9, 0x23, 0, 0, 2, 0x58, 0xFF, 0xFF, 0xFF, 0xFF, 0xFF] := by decide

/-! ### The rotor -/

/-- The gate with the rotor of lane 0 at an offset, its lines at 0, 0. -/
def turned (p : Wb610) (offset : Int) : Wb610 :=
  p.modLane 0 fun x => { x with rotor := { x.rotor with offset := offset } }

theorem witness_RotorStepsMoveTheOffset :
    (false, false, true, false) ∈ forwardRows ∧ (false, false, false, true) ∈ backwardRows
      ∧ ((turned base 4).lane 0).rotor.offset + 1 < 6
      ∧ ((turned (admittedGate (.passing 1) .entry .outside) 34).lane 0).rotor.offset + 1 ≠ 36
      ∧ ((admittedGate (.passing 1) .entry .outside).lane 0).state = .passing 1
      ∧ (LaneState.closed .host).isUnadmitted = true
      ∧ ((turned base (-2)).lane 0).rotor.offset - 1 ≠ -4 := by decide +kernel

theorem witness_PassageStartsAndCommits :
    let p := turned (admittedGate (.released 1) .entry .outside) 5
    let q := turned (admittedGate (.passing 1) .passout .inside) 35
    -- R86: a RELEASED lane that carries an offset of 35 completes at once
    let r := turned (admittedGate (.released 1) .passout .inside) 35
    (p.lane 0).OutputsFollow ∧ (p.lane 0).state = .released 1 ∧ 6 ≤ (p.lane 0).rotor.offset + 1
      ∧ (p.lane 0).rotor.offset + 1 ≠ 36
      ∧ (q.lane 0).OutputsFollow ∧ (q.lane 0).rotor.offset + 1 = 36 ∧ (q.lane 0).hold = some ticketKey
      ∧ q.table.find ticketKey = some (heldTicket .passout .inside)
      ∧ (heldTicket .passout .inside).state.hold.isSome ∧ q.clock = some 600
      ∧ (r.lane 0).OutputsFollow ∧ (r.lane 0).state = .released 1 ∧ (r.lane 0).rotor.offset + 1 = 36
      ∧ (r.lane 0).hold = some ticketKey ∧ r.table.find ticketKey = some (heldTicket .passout .inside)
      ∧ r.clock = some 600
      ∧ ((after (.rotorLineChange 0 true false) (stateOf r)).part.lane 0).state = .idle
      ∧ (after (.rotorLineChange 0 true false) (stateOf r)).part.journal.length = 1 := by decide +kernel

theorem witness_BackturnsByLaneState :
    let p := turned (admittedGate (.released 1) .entry .outside) (-3)
    let q := turned (admittedGate (.passing 1) .entry .outside) (-3)
    (p.lane 0).OutputsFollow ∧ (p.lane 0).rotor.offset - 1 = -4 ∧ (p.lane 0).current = some scan
      ∧ (q.lane 0).OutputsFollow ∧ (q.lane 0).hold = some ticketKey ∧ (q.lane 0).current = some scan
      ∧ ((turned base (-3)).lane 0).OutputsFollow := by decide +kernel

theorem witness_ForwardMovementWithoutAHold :
    (false, false, true, false) ∈ forwardRows ∧ ((turned base 5).lane 0).state.isUnadmitted = true
      ∧ ((turned base 5).lane 0).config.direction = .entry ∧ 6 ≤ ((turned base 5).lane 0).rotor.offset + 1
      ∧ ((turned base 5).lane 0).rotor.forced = false ∧ ((turned base 35).lane 0).rotor.offset + 1 = 36
      ∧ told (after (.rotorLineChange 0 true false) (stateOf (turned base 35)))
        = [(1, 1, 0), (6, 0, 0), (7, 0, 0)] := by decide +kernel

theorem witness_EncoderFaultsByLaneState :
    let p := withLane fun x => { x with state := .idle, rotor := { x.rotor with faults := 7 } }
    (p.lane 0).rotor.lineA ≠ true ∧ (p.lane 0).rotor.lineB ≠ true ∧ (p.lane 0).OutputsFollow
      ∧ (p.lane 0).state.isOpen = true ∧ (p.lane 0).rotor.faults + 1 = 8
      ∧ told (after (.rotorLineChange 0 true true) (stateOf p)) = [(1, 1, 0), (8, 0, 8), (9, 0, 8)] := by
  decide +kernel

/-! ### Ports, bus and sweep -/

theorem witness_BarcodeLinesAreClassified :
    let p := withLane fun x => { x with port := { x.port with buffer := List.replicate 8 0x30, counted := 8 } }
    let q := withLane fun x => { x with port := { x.port with badCount := 9 } }
    (p.lane 0).OutputsFollow ∧ (p.lane 0).config.barcodeOn = true ∧ (p.lane 0).port.lineBad = false
      ∧ (24 ≤ 24 ∧ 23 < 24) ∧ ((48 : Byte).toNat = 48 ∧ (58 : Byte).toNat = 58)
      ∧ ((after (.barcodeCharacter 0 13 false) (stateOf p)).part.lane 0).port = .fresh
      ∧ told (after (.barcodeCharacter 0 13 false) (stateOf q)) = [(1, 1, 0), (10, 0, 10)] := by decide +kernel

/-- Two readers on the bus: lane 2 ONLINE, lane 5 OFFLINE and due. -/
def twoReaders : Wb610 :=
  (base.modLane 2 fun x => { x with config := { x.config with cardSource := .bus } }).modLane 5 fun x =>
    { x with
      config := { x.config with cardSource := .bus }
      reader := { online := false, misses := 3, repoll := .runOut } }

theorem witness_BusArbiterChooses :
    base.poll = none ∧ (twoReaders.lane 5).readerDue = true ∧ (twoReaders.lane 2).readerOnBus = true
      ∧ (∀ l : LaneNo, (base.lane l).readerDue = false ∧ (base.lane l).readerOnBus = false)
      ∧ twoReaders.chooseReader.pollPointer = 5 := by decide +kernel

theorem witness_PollsAndMisses :
    ({ twoReaders with poll := some { lane := 2, window := none, leftBus := true } } : Wb610).poll
        = some { lane := 2, window := none, leftBus := true }
      ∧ (twoReaders.lane 2).reader.online = true ∧ (twoReaders.lane 2).reader.misses < 2
      ∧ ((twoReaders.modLane 2 fun x => { x with reader := { x.reader with misses := 2 } }).lane 2).reader.misses
        = 2
      ∧ (twoReaders.lane 5).reader.online = false ∧ (twoReaders.lane 5).reader.repoll = .runOut
      ∧ ((twoReaders.modLane 5 fun x => { x with reader := { x.reader with repoll := .running 0 } }).lane 5).reader.repoll
        = .running 0 := by decide +kernel

/-- A good CARD answer of reader 2: identity 4A 17 C0 03. -/
def cardAnswer : List Byte :=
  [0xC3, 2, 1, 4, 0x4A, 0x17, 0xC0, 0x03, busCheck [2, 1, 4, 0x4A, 0x17, 0xC0, 0x03]]

theorem witness_BusAnswersAreTaken :
    let p : Wb610 := { twoReaders with poll := some { lane := 2, window := some 1, leftBus := false } }
    p.poll = some { lane := 2, window := some 1, leftBus := false } ∧ 0xC3#8 ∉ ([0x11, 0x22] : List Byte)
      ∧ busAnswerOf cardAnswer = .frame 2 (.card cardKey4)
      ∧ (busCheck [2, 1, 4, 0x4A, 0x17, 0xC0, 0x03]
        = ([2, 1, 4, 0x4A, 0x17, 0xC0, 0x03] : List Byte).foldl (· ^^^ ·) 0x55#8)
      ∧ busAnswerOf [0xC3, 2, 0, 11] = .bad ∧ busAnswerOf [0xC3, 2, 0, 10] = .incomplete := by decide +kernel

/-- R113: lane 2 taken off the bus and put back on while its reader is polled. -/
def offAndOn : State :=
  let p : Wb610 := { twoReaders with poll := some { lane := 2, window := some 1, leftBus := false } }
  let q := (after .laneConfigure (asked p 0x10 [2, 1, 0, 0, 1, 0])).part
  stateOf (after .laneConfigure (asked { q with responses := [] } 0x10 [2, 1, 0, 1, 1, 0])).part

/-- R113, R117: a CARD of a lane that left the bus during the poll is discarded, though the lane is back on it; a lane
that stayed on the bus takes it as an arrival, ERROR at this CLOSED lane. -/
theorem test_card_of_left_bus :
    let stayed : Wb610 := { twoReaders with poll := some { lane := 2, window := some 1, leftBus := false } }
    (offAndOn.part.lane 2).config.cardSource = .bus
      ∧ offAndOn.part.poll = some { lane := 2, window := some 1, leftBus := true }
      ∧ ((after (.busAnswer cardAnswer) offAndOn).part.lane 2).signals.tone = none
      ∧ ((after (.busAnswer cardAnswer) (stateOf stayed)).part.lane 2).signals.tone
        = some { pattern := .error, left := 204800 } := by decide +kernel

theorem witness_VisitComparesThenConverts :
    base.table.Sound ∧ base.visitTimer = some 4000
      ∧ ({ base with visitTimer := none } : Wb610).visitTimer = none := by decide +kernel

theorem witness_FastPassVisitsEveryBucket :
    (asked base 0x42 []).Takes (frame 0x42 []) [] ∧ base.fastPass = false
      ∧ answer (after .sweepNow (asked { base with fastPass := true } 0x42 [])) = [4]
      ∧ (4095 + 1) % 4096 = (0 : Fin 4096).val ∧ (4094 + 1) % 4096 ≠ (0 : Fin 4096).val := by decide +kernel

theorem witness_MemoryFaultDisturbsOneBucket :
    (∀ d ∈ [sound],
        (∀ w ∈ d.window, w.fromMinute ≤ w.untilMinute ∧ w.untilMinute ≤ 4319)
          ∧ (∀ u ∈ d.lastUse, u.time ≤ 259199) ∧ d.expiry ≤ 273599)
      ∧ ¬ (({ sound with expiry := 273600 } : Disturbance).expiry ≤ 273599) := by decide +kernel

/-! ### Gate inputs and the server line -/

theorem witness_EmergencyFreesAndReturns :
    let p : Wb610 := { admittedGate (.passing 1) .entry .outside with rawEmergency := true, debounce := some 0 }
    base.debounce = none ∧ p.debounce ≠ none ∧ p.rawEmergency = true ∧ p.emergency = false ∧ p.OutputsFollow
      ∧ told (after .debounceExpiry (stateOf p)) = [(1, 1, 0), (18, 0, 1)]
      ∧ (after .debounceExpiry (stateOf p)).part.OutputsFollow
      ∧ (let q : Wb610 :=
          { (after .debounceExpiry (stateOf p)).part with rawEmergency := false, debounce := some 0, tally := 2 }
        q.debounce ≠ none ∧ q.rawEmergency = false ∧ q.emergency = true ∧ q.OutputsFollow
          ∧ (q.lane 0).state = .free .wasOpen ∧ (q.lane 9).state = .free (.wasClosed .restart)
          ∧ told (after .debounceExpiry (stateOf q)) = [(1, 1, 0), (18, 0, 1), (19, 0, 2)]
          ∧ ((after .debounceExpiry (stateOf q)).part.lane 0).state = .idle) := by decide +kernel

/-- R158 against R164 (log 24): a TEST lane that shows FREE keeps its flash phase when the emergency frees it; a lane
that showed another signal begins its flash cycle. -/
theorem test_free_keeps_its_flash_phase :
    let p : Wb610 :=
      { withLane fun x =>
          { x with
            state := .test .host
            signals := { x.signals with commanded := .free, shown := .free, flash := some { lit := false, left := 9 } } }
        with rawEmergency := true, debounce := some 0 }
    let q := (after .debounceExpiry (stateOf p)).part
    (q.lane 0).signals.flash = some { lit := false, left := 9 }
      ∧ (q.lane 1).signals.flash = some { lit := true, left := 256000 } := by decide +kernel

theorem witness_SupplyAndClockFollowTheirTables :
    base.clock = none ∧ ({ base with clock := some 259199 } : Wb610).clock = some 259199 := by decide

/-- The bytes of PING with tag 7 after START. -/
def pingBytes : List Byte := (frame 0x01 []).bytesAfterStart

theorem witness_ReceiverBuildsFrames :
    base.receiver = .hunting
      ∧ ({ base with receiver := .receiving pingBytes.dropLast 1 } : Wb610).receiver
        = .receiving pingBytes.dropLast 1
      ∧ pingBytes.length = 6 ∧ fieldAt pingBytes 0 2 = 2 ∧ 2 + 4 ≤ pingBytes.length
      ∧ (crc16 (pingBytes.take 4)).toNat = fieldAt pingBytes 4 2
      ∧ (fieldAt [0x03, 0x22] 0 2 = 802 ∧ fieldAt [0x03, 0x23] 0 2 = 803 ∧ fieldAt [0, 1] 0 2 = 1)
      -- a damaged second LENGTH byte that puts LENGTH out of range: cause 1 (log 25)
      ∧ told (after (.receiverByte 1 true) (stateOf { base with receiver := .receiving [0] 1 }))
        = [(1, 1, 0), (22, 1, 0)] := by
  decide +kernel

theorem witness_ArbiterTakesByPriority :
    let p : Wb610 :=
      { base with handler := .awaitingRestartResponse, sending := some (Frame.reply (frame 0x50 []) 0 []) }
    p.handler = .awaitingRestartResponse ∧ p.sending = some { type := 0xD0#8, tag := 7, payload := [0] }
      ∧ base.handler ≠ .awaitingRestartResponse ∧ base.responses = [] ∧ base.verifyQueue = []
      ∧ base.reports.length ≤ 128 ∧ base.reports ≠ [] ∧ base.online = false
      ∧ (asking Table.empty .entry).verifyQueue = message .unknown .entry :: [] := by decide +kernel

theorem witness_FrameArrivesByteByByte :
    (List.replicate 800 (0 : Byte)).length ≤ 800 ∧ base.receiver = .hunting ∧ base.rxBuffer.length < 2 := by
  decide +kernel

theorem witness_RecordsAreLaidOut :
    note.key = .none ∧ ({ note with key := .credential ticketKey } : Report).key = .credential ticketKey
      ∧ ({ note with key := .sequence 1 } : Report).record.drop 9 = [0, 0, 0, 0, 1, 0, 0, 0, 0, 0, 0]
      ∧ (4294967295 < 4294967296) ∧ note.reason < 256 ∧ 65535 < 65536 ∧ (message .unknown .entry).tag < 160 := by decide

theorem witness_LaneWriteSetsOutputs :
    let u : SignalUnit :=
      { shown := .wait, flash := some { lit := false, left := 1 }, commanded := .stop
        tone := some { pattern := .refuse, left := 256000 - 51200 } }
    u.lamps = { red := false, amber := false, green := false } ∧ u.sounder = none
      ∧ ({ u with tone := some { pattern := .attention, left := 1536000 - 256000 } } : SignalUnit).sounder
        = some (.high, .full)
      ∧ ({ u with tone := some { pattern := .refuse, left := 256000 - 204800 } } : SignalUnit).sounder
        = some (.high, .soft) := by decide

/-! ### What every step keeps -/

/-- A part in the middle of an admission meets every invariant, and so does the part after the step that commits it. -/
theorem witness_OutputsFollowAlways :
    (turned (admittedGate (.passing 1) .entry .outside) 35).OutputsFollow
      ∧ (after (.rotorLineChange 0 true false)
        (stateOf (turned (admittedGate (.passing 1) .entry .outside) 35))).part.OutputsFollow := by decide +kernel

theorem witness_TableStaysSound :
    (admittedGate (.passing 1) .entry .outside).table.Sound
      ∧ (admittedGate (.passing 1) .entry .outside).table.CodesAgree := by decide +kernel

theorem witness_LanesStayShaped :
    (askingGate ticket .unknown .entry none |>.modLane 0 fun x => { x with queryCounter := 5 }).LanesShaped
      ∧ (askingGate ticket .unknown .entry none).MessagesMatch
      ∧ (admittedGate (.passing 1) .entry .outside).LanesShaped
      ∧ (admittedGate (.passing 1) .entry .outside).EmergencyFollows
      ∧ (admittedGate (.passing 1) .entry .outside).ServiceReady := by decide +kernel

theorem witness_QueuesAndCountsStayBounded :
    oneRecord.QueuesBounded ∧ oneRecord.HandlerWaits ∧ oneRecord.JournalRuns ∧ oneRecord.InRange
      ∧ oneRecord.SweepPaced ∧ oneRecord.PollPointed := by decide +kernel

theorem witness_HoldsAlwaysMatch : (admittedGate (.passing 1) .entry .outside).AdmissionsSound := by decide +kernel

end Sys2Proof.Tests
end

