-- ==== Sys2Proof/Proofs/Fields.lean ====
section
/-! SUPPORT. Fields of a payload read back: byte order, keys and bucket numbers (R194). -/

namespace Sys2Proof.Machine

/-! ## Byte order -/

/-- Bytes written most significant first read back as the number they hold, behind what was read before them. -/
theorem beNatFrom_beBytes (acc k n : Nat) : beNatFrom acc (beBytes k n) = acc * 256 ^ k + n % 256 ^ k := by
  induction k generalizing acc with
  | zero => simp [beBytes, beNatFrom, Nat.mod_one]
  | succ k ih =>
    have split : n % 256 ^ (k + 1) = n % 256 ^ k + 256 ^ k * (n / 256 ^ k % 256) := Nat.mod_pow_succ
    simp only [beBytes, beNatFrom, ih, BitVec.toNat_ofNat, split]
    ring

theorem beBytes_length (k n : Nat) : (beBytes k n).length = k := by
  induction k with
  | zero => rfl
  | succ k ih => simp [beBytes, ih]

theorem fieldAt_two (b0 b1 : Byte) (rest : List Byte) :
    fieldAt (b0 :: b1 :: rest) 0 2 = 256 * b0.toNat + b1.toNat := by
  simp [fieldAt, beNat, beNatFrom]

/-- Two bytes are the two-byte field of the number they stand for. -/
theorem beBytes_two (b0 b1 : Byte) : beBytes 2 (256 * b0.toNat + b1.toNat) = [b0, b1] := by
  have h0 : BitVec.ofNat 8 ((256 * b0.toNat + b1.toNat) / 256) = b0 := by
    apply BitVec.eq_of_toNat_eq
    have := b0.isLt; have := b1.isLt
    simp only [BitVec.toNat_ofNat]; omega
  have h1 : BitVec.ofNat 8 (256 * b0.toNat + b1.toNat) = b1 := by
    apply BitVec.eq_of_toNat_eq
    have := b1.isLt
    simp only [BitVec.toNat_ofNat]; omega
  simp [beBytes, h0, h1]

theorem byteAt_head (b : Byte) (rest : List Byte) : byteAt (b :: rest) 0 = b.toNat := by
  simp [byteAt, fieldAt, beNat, beNatFrom]

/-! ## Keys -/

theorem KeyKind.ofCode_code (k : KeyKind) : KeyKind.ofCode k.code = some k := by cases k <;> rfl

/-- No kind is listed outside 1 to 4. -/
theorem KeyKind.ofCode_of_unlisted {n : Nat} (h : n = 0 ∨ 4 < n) : KeyKind.ofCode n = none := by
  unfold KeyKind.ofCode
  split
  case h_5 => rfl
  all_goals omega

theorem keyAt_of_unlisted_kind {kind : Byte} (body : List Byte) (h : kind = 0 ∨ 4 < kind.toNat) :
    keyAt (kind :: body) 0 = none := by
  have unlisted : kind.toNat = 0 ∨ 4 < kind.toNat := h.imp_left fun e => by simp [e]
  simp [keyAt, byteAt_head, KeyKind.ofCode_of_unlisted unlisted]

theorem Key.record_length (k : Key) : k.record.length = 11 := by
  simp [Key.record, Key.tenBytes, beBytes_length]

/-- A key written at the front of a payload reads back. -/
theorem keyAt_record_append (k : Key) (rest : List Byte) : keyAt (k.record ++ rest) 0 = some k := by
  have kind : byteAt (k.record ++ rest) 0 = k.kind.code := by
    have small : k.kind.code < 256 := by cases k.kind <;> decide
    simp [Key.record, byteAt_head, byte, Nat.mod_eq_of_lt small]
  have bytes : fieldAt (k.record ++ rest) 1 10 = k.bytes.toNat := by
    have ten : (k.tenBytes ++ rest).take 10 = k.tenBytes := by
      rw [← beBytes_length 10 k.bytes.toNat]; exact List.take_left
    have small : k.bytes.toNat < 256 ^ 10 := k.bytes.isLt
    simp only [fieldAt, Key.record, List.cons_append, List.drop_succ_cons, List.drop_zero, ten]
    simp only [Key.tenBytes, beNat, beNatFrom_beBytes, Nat.mod_eq_of_lt small, Nat.zero_mul, Nat.zero_add]
  simp [keyAt, kind, bytes, KeyKind.ofCode_code]

theorem keyAt_record (k : Key) : keyAt k.record 0 = some k := by
  simpa using keyAt_record_append k []

/-! ## Bucket numbers -/

theorem bucketNoOf_of_le {n : Nat} (h : n ≤ 4095) : bucketNoOf n = some ⟨n, Nat.lt_succ_of_le h⟩ :=
  dif_pos (Nat.lt_succ_of_le h)

theorem bucketNoOf_of_gt {n : Nat} (h : 4095 < n) : bucketNoOf n = none :=
  dif_neg (Nat.not_lt.mpr h)

/-! ## Requests of a fixed length -/

/-- A request whose meaning answers on the part `q`: the frame gone from the buffer, one response placed. -/
theorem State.Takes.act_serveFixed {s : State} {f : Frame} {rest : List Frame} (h : s.Takes f rest) {ty : Byte}
    {n : Nat} {body : Wb610 → Frame → Wb610} (ht : f.type = ty) (hn : f.payload.length = n) (q : Wb610)
    (hq : q.responses = s.part.responses) {code : ResultCode} {fields : List Byte}
    (hbody : body { s.part with rxBuffer := rest } f = { q with rxBuffer := rest }.respond f code fields) :
    s.act (fun p => p.serveFixed ty n body) = .next (s.answered rest q (f.reply code.code fields)) := by
  rw [State.act_eq, h.serveFixed body ht hn, hbody]
  exact congrArg _ (s.respond_eq_answered f rest { q with rxBuffer := rest } rfl hq code fields)

end Sys2Proof.Machine
end

