-- ==== Sys2Proof/Proofs/TableLoad.lean ====
section
/-! One record of TABLE LOAD (R11-R13). -/

namespace Sys2Proof.Machine

/-! ## The record at the table (R13), case by case -/

section
variable {t : Table} {record : List Byte} {e old : Entry}

theorem Entry.isHeld_of_held {h : HoldRecord} (hs : e.state = .held h) : e.isHeld = true := by
  simp [Entry.isHeld, hs, EntryState.hold]

theorem Entry.isHeld_of_no_hold (hs : e.state.hold = none) : e.isHeld = false := by
  simp [Entry.isHeld, hs]

theorem Table.loadRecord_of_invalid (h : entryOfRecord record = none) : t.loadRecord record = (t, .badValue) := by
  simp [Table.loadRecord, h]

theorem Table.loadRecord_of_suspect (h : entryOfRecord record = some e)
    (hs : (t.bucket (bucketOf e.key)).suspect = true) : t.loadRecord record = (t, .suspect) := by
  simp [Table.loadRecord, h, hs]

theorem Table.loadRecord_of_held (h : entryOfRecord record = some e)
    (hs : (t.bucket (bucketOf e.key)).suspect = false) (hf : t.find e.key = some old) (hold : old.isHeld = true) :
    t.loadRecord record = (t, .held) := by
  simp [Table.loadRecord, h, hs, hf, hold]

theorem Table.loadRecord_of_present (h : entryOfRecord record = some e)
    (hs : (t.bucket (bucketOf e.key)).suspect = false) (hf : t.find e.key = some old) (hold : old.isHeld = false) :
    t.loadRecord record = (t.replace e, .ok) := by
  simp [Table.loadRecord, h, hs, hf, hold]

theorem Table.loadRecord_of_full (h : entryOfRecord record = some e)
    (hs : (t.bucket (bucketOf e.key)).suspect = false) (hf : t.find e.key = none)
    (hfull : 32 ≤ (t.bucket (bucketOf e.key)).entries.length) : t.loadRecord record = (t, .full) := by
  simp [Table.loadRecord, h, hs, hf, Nat.not_lt.mpr hfull]

theorem Table.loadRecord_of_room (h : entryOfRecord record = some e)
    (hs : (t.bucket (bucketOf e.key)).suspect = false) (hf : t.find e.key = none)
    (hroom : (t.bucket (bucketOf e.key)).entries.length < 32) : t.loadRecord record = (t.append e, .ok) := by
  simp [Table.loadRecord, h, hs, hf, hroom]

end

/-! ## The request around the record (R11) -/

theorem loadResult_code (statuses : List Byte) :
    (loadResult statuses).code = if ∀ c ∈ statuses, c = 0 then 0 else 11 := by
  by_cases h : ∀ c ∈ statuses, c = 0
  · have : (statuses.all fun b => decide (b = 0)) = true := by simpa using h
    rw [loadResult, if_pos this, if_pos h]
    rfl
  · have : ¬ (statuses.all fun b => decide (b = 0)) = true := by simpa using h
    rw [loadResult, if_neg this, if_neg h]
    rfl

/-- After the last record the response is placed; before it the request goes on with the rest. -/
theorem Wb610.continueLoad_eq (p : Wb610) (tag : Byte) (todo : List (List Byte)) (statuses : List Byte) :
    p.continueLoad tag todo statuses =
      if todo = [] then
        { p with
          request := none
          responses := p.responses
            ++ [{ type := 0xA0#8, tag := tag
                  payload := (if ∀ c ∈ statuses, c = 0 then 0 else 11) :: byte statuses.length :: statuses }] }
      else { p with request := some (.load tag todo statuses) } := by
  cases todo with
  | nil =>
    rw [if_pos rfl, ← loadResult_code]
    rfl
  | cons _ _ => rfl

/-- TABLE_LOAD_RECORD takes the next record to the table and goes on with its status. -/
theorem exec_tableLoadRecord {s : State} {tag : Byte} {record : List Byte} {todo : List (List Byte)}
    {statuses : List Byte} (hreq : s.part.request = some (.load tag (record :: todo) statuses)) {u : Table}
    {code : ResultCode} (hdone : s.part.table.loadRecord record = (u, code)) :
    exec .tableLoadRecord s
      = .next { s with part := { s.part with table := u }.continueLoad tag todo (statuses ++ [code.code]) } := by
  have step : s.part.tableLoadRecord
      = { s.part with table := u }.continueLoad tag todo (statuses ++ [code.code]) := by
    simp only [Wb610.tableLoadRecord, hreq, hdone]
  rw [← step]
  rfl

/-- Settles O31: the record's case at the table (`Table.loadRecord_of_…`), then the request around it. -/
theorem tableLoadTakesEachRecord : Obligations.TableLoadTakesEachRecord := by
  intro s tag record todo statuses hreq t gives
  have taken : ∀ {u : Table} {code : ResultCode}, t.loadRecord record = (u, code) → gives u code.code := by
    intro u code hdone
    have h := exec_tableLoadRecord hreq hdone
    rw [Wb610.continueLoad_eq, List.length_append] at h
    exact h
  refine ⟨fun hbad => taken (Table.loadRecord_of_invalid hbad), ?_⟩
  intro e he b v
  refine ⟨fun hs => taken (Table.loadRecord_of_suspect he hs), fun hs => ⟨?_, ?_, ?_, ?_⟩⟩
  · intro old h hf hh
    exact taken (Table.loadRecord_of_held he hs hf (Entry.isHeld_of_held hh))
  · intro old hf hn
    exact taken (Table.loadRecord_of_present he hs hf (Entry.isHeld_of_no_hold hn))
  · intro hf hfull
    exact taken (Table.loadRecord_of_full he hs hf hfull)
  · intro hf hroom
    exact taken (Table.loadRecord_of_room he hs hf hroom)

end Sys2Proof.Machine
end

