-- ==== Sys2Proof/Proofs/TableReads.lean ====
section
/-! TABLE READ by key and by bucket (R18, R19). -/

namespace Sys2Proof.Machine

section
variable (p : Wb610) {f : Frame} {b0 b1 first count : Byte}

/-! ## TABLE READ by key (R18) -/

theorem exec_tableReadByKey (s : State) :
    exec .tableReadByKey s = s.act fun p => p.serveFixed 0x24#8 11 Wb610.readByKey := rfl

theorem Wb610.readByKey_of_no_key (h : keyAt f.payload 0 = none) : p.readByKey f = p.respond f .badValue [] := by
  simp [Wb610.readByKey, h]

theorem Wb610.readByKey_of_absent {k : Key} (h : keyAt f.payload 0 = some k) (hf : p.table.find k = none) :
    p.readByKey f
      = p.respond f .notFound (beBytes 2 (bucketOf k) ++ [flagByte (p.table.bucket (bucketOf k)).suspect]) := by
  simp [Wb610.readByKey, h, hf]

theorem Wb610.readByKey_of_found {k : Key} {e : Entry} (h : keyAt f.payload 0 = some k)
    (hf : p.table.find k = some e) :
    p.readByKey f
      = p.respond f .ok
          (beBytes 2 (bucketOf k) ++ [flagByte (p.table.bucket (bucketOf k)).suspect] ++ e.record) := by
  simp [Wb610.readByKey, h, hf]

/-! ## TABLE READ by bucket (R19) -/

theorem exec_tableReadByBucket (s : State) :
    exec .tableReadByBucket s = s.act fun p => p.serveFixed 0x25#8 4 Wb610.readByBucket := rfl

theorem byteAt_third_and_fourth (b0 b1 b2 b3 : Byte) :
    byteAt [b0, b1, b2, b3] 2 = b2.toNat ∧ byteAt [b0, b1, b2, b3] 3 = b3.toNat := by
  simp [byteAt, fieldAt, beNat, beNatFrom]

theorem Wb610.readByBucket_of_range (hp : f.payload = [b0, b1, first, count])
    (hb : 256 * b0.toNat + b1.toNat ≤ 4095) (hf : first.toNat ≤ 31) (h1 : 1 ≤ count.toNat)
    (h16 : count.toNat ≤ 16) :
    let v := p.table.bucket (256 * b0.toNat + b1.toNat)
    p.readByBucket f
      = p.respond f .ok
          ([b0, b1, byte v.entries.length, flagByte v.suspect] ++ beBytes 2 v.code.toNat
            ++ entryBytes ((v.entries.drop first.toNat).take count.toNat)) := by
  obtain ⟨third, fourth⟩ := byteAt_third_and_fourth b0 b1 first count
  simp [Wb610.readByBucket, hp, fieldAt_two, bucketNoOf_of_le hb, third, fourth, hf, h1, h16, beBytes_two]

theorem Wb610.readByBucket_of_out_of_range (hp : f.payload = [b0, b1, first, count])
    (h : 4095 < 256 * b0.toNat + b1.toNat ∨ ¬ (first.toNat ≤ 31 ∧ 1 ≤ count.toNat ∧ count.toNat ≤ 16)) :
    p.readByBucket f = p.respond f .badValue [] := by
  obtain ⟨third, fourth⟩ := byteAt_third_and_fourth b0 b1 first count
  rcases Nat.lt_or_ge 4095 (256 * b0.toNat + b1.toNat) with hgt | hle
  · simp [Wb610.readByBucket, hp, fieldAt_two, bucketNoOf_of_gt hgt]
  · have range := h.resolve_left (Nat.not_lt.mpr hle)
    simp only [Wb610.readByBucket, hp, fieldAt_two, bucketNoOf_of_le hle, third, fourth, if_neg range]

end

/-- Settles O34: each reading answers on the part as it stands, by the case of its body. -/
theorem tableReadsShowEntries : Obligations.TableReadsShowEntries := by
  refine ⟨?_, ?_, ?_⟩
  · intro s f rest kind body htakes ht hp hlen hkind
    have len : f.payload.length = 11 := by simp [hp, hlen]
    have unlisted : keyAt f.payload 0 = none := by rw [hp]; exact keyAt_of_unlisted_kind body hkind
    rw [exec_tableReadByKey]
    exact htakes.act_serveFixed ht len s.part rfl (Wb610.readByKey_of_no_key _ unlisted)
  · intro s f rest k htakes ht hp v fields
    have len : f.payload.length = 11 := by rw [hp, k.record_length]
    have key : keyAt f.payload 0 = some k := by rw [hp]; exact keyAt_record k
    rw [exec_tableReadByKey]
    constructor
    · intro hf
      exact htakes.act_serveFixed ht len s.part rfl (Wb610.readByKey_of_absent _ key hf)
    · intro e hf
      exact htakes.act_serveFixed ht len s.part rfl (Wb610.readByKey_of_found _ key hf)
  · intro s f rest b0 b1 first count htakes ht hp b v
    have len : f.payload.length = 4 := by simp [hp]
    have positive : count ≠ 0 ↔ 1 ≤ count.toNat := by
      bv_omega
    rw [exec_tableReadByBucket]
    constructor
    · intro hout
      have out : 4095 < b ∨ ¬ (first.toNat ≤ 31 ∧ 1 ≤ count.toNat ∧ count.toNat ≤ 16) := by
        rw [← positive]
        rcases hout with h | h | h | h
        · exact .inl h
        · exact .inr fun r => absurd r.1 (Nat.not_le.mpr h)
        · exact .inr fun r => r.2.1 h
        · exact .inr fun r => absurd r.2.2 (Nat.not_le.mpr h)
      exact htakes.act_serveFixed ht len s.part rfl (Wb610.readByBucket_of_out_of_range _ hp out)
    · intro hb hf h0 h16
      exact htakes.act_serveFixed ht len s.part rfl
        (Wb610.readByBucket_of_range _ hp hb hf (positive.mp h0) h16)

end Sys2Proof.Machine
end

