-- ==== Sys2Proof/Proofs/TableClears.lean ====
section
/-! BUCKET CLEAR and TABLE CLEAR (R20, R21). -/

namespace Sys2Proof.Machine

section
variable (p : Wb610) {f : Frame} {b0 b1 : Byte}

/-! ## BUCKET CLEAR (R20) -/

theorem exec_bucketClear (s : State) :
    exec .bucketClear s = s.act fun p => p.serveFixed 0x26#8 2 Wb610.clearBucket := rfl

theorem Wb610.clearBucket_of_out_of_range (hp : f.payload = [b0, b1]) (hb : 4095 < 256 * b0.toNat + b1.toNat) :
    p.clearBucket f = p.respond f .badValue [] := by
  simp [Wb610.clearBucket, hp, fieldAt_two, bucketNoOf_of_gt hb]

theorem Wb610.clearBucket_of_held (hp : f.payload = [b0, b1]) (hb : 256 * b0.toNat + b1.toNat ≤ 4095)
    (hheld : (p.table.bucket (256 * b0.toNat + b1.toNat)).entries.any Entry.isHeld = true) :
    p.clearBucket f = p.respond f .held [] := by
  simp only [Wb610.clearBucket, hp, fieldAt_two, bucketNoOf_of_le hb, if_pos hheld]

theorem Wb610.clearBucket_of_unheld (hp : f.payload = [b0, b1]) (hb : 256 * b0.toNat + b1.toNat ≤ 4095)
    (hfree : ¬ (p.table.bucket (256 * b0.toNat + b1.toNat)).entries.any Entry.isHeld = true) :
    p.clearBucket f
      = { p with table := p.table.setBucket (256 * b0.toNat + b1.toNat) .empty }.respond f .ok
          [byte (p.table.bucket (256 * b0.toNat + b1.toNat)).entries.length] := by
  simp only [Wb610.clearBucket, hp, fieldAt_two, bucketNoOf_of_le hb, if_neg hfree]

/-- R9, R20: a bucket emptied, the entry count falls by the number of its entries. -/
theorem Table.entryCount_setBucket_empty {t : Table} (h : t.Sound) (b : Nat) :
    (t.setBucket b .empty).entryCount + (t.bucket b).entries.length = t.entryCount := by
  obtain ⟨hwf, -, hcount, -⟩ := h
  have sums := sum_putBucket b .empty (fun w => w.entries.length) rfl hwf
  have none_left : Bucket.empty.entries.length = 0 := rfl
  simp only [Table.setBucket, Table.bucket, hcount]
  omega

/-! ## TABLE CLEAR (R21) -/

theorem exec_tableClear (s : State) :
    exec .tableClear s = s.act fun p => p.serveFixed 0x27#8 0 Wb610.clearTable := rfl

theorem Wb610.clearTable_of_closed (h : p.allClosed = true) :
    p.clearTable f = { p with table := .empty }.respond f .ok [] := if_pos h

theorem Wb610.clearTable_of_not_closed (h : ¬ p.allClosed = true) :
    p.clearTable f = p.respond f .wrongState [] := if_neg h

theorem LaneState.isClosed_iff (st : LaneState) : st.isClosed = true ↔ ∃ c, st = .closed c := by
  cases st <;> simp [LaneState.isClosed]

theorem mem_laneNos (l : LaneNo) : l ∈ laneNos := by revert l; decide

theorem Wb610.allClosed_iff : p.allClosed = true ↔ ∀ l : LaneNo, ∃ c, (p.lane l).state = .closed c := by
  simp only [Wb610.allClosed, List.all_eq_true, LaneState.isClosed_iff]
  exact ⟨fun h l => h l (mem_laneNos l), fun h l _ => h l⟩

/-- R54: a CLOSED lane has no hold. -/
theorem Wb610.AdmissionsSound.hold_of_closed {p : Wb610} (h : p.AdmissionsSound) {l : LaneNo} {c : ClosedCause}
    (hc : (p.lane l).state = .closed c) : (p.lane l).hold = none := by
  obtain ⟨-, hshaped, -, hlanes⟩ := h
  obtain ⟨-, -, -, -, -, hslot, -⟩ := hshaped l
  obtain ⟨-, hhold, -, -⟩ := hlanes l
  have no_query : (p.lane l).slot = none := by simpa [hc, LaneState.isVerifying] using hslot
  simpa [hc, LaneState.admitted, no_query] using hhold

/-- An entry of a bucket stands in a listed bucket. -/
theorem Table.mem_bucket_listed {t : Table} {b : Nat} {e : Entry} (he : e ∈ (t.bucket b).entries) :
    ∃ r ∈ t.buckets, e ∈ r.2.entries := by
  rcases bucketAt_mem_or_empty t.buckets b with hempty | hlisted
  · have : t.bucket b = .empty := hempty
    simp [this, Bucket.empty] at he
  · exact ⟨_, hlisted, he⟩

/-- R10: a HELD entry is named by its holding lane, so with every lane CLOSED there is none. -/
theorem Wb610.AdmissionsSound.no_hold_of_closed {p : Wb610} (h : p.AdmissionsSound)
    (hclosed : ∀ l : LaneNo, ∃ c, (p.lane l).state = .closed c) {b : Nat} {e : Entry}
    (he : e ∈ (p.table.bucket b).entries) : e.state.hold = none := by
  obtain ⟨r, hr, her⟩ := Table.mem_bucket_listed he
  have ⟨_, _, hnamed, _⟩ := h
  cases hs : e.state.hold with
  | none => rfl
  | some record =>
    obtain ⟨c, hc⟩ := hclosed record.lane
    have named := hnamed r hr e her record hs
    rw [h.hold_of_closed hc] at named
    cases named

/-- Whether an entry list holds a HELD entry, as the statements say it. -/
theorem any_isHeld_of_held {es : List Entry} (h : ∃ e ∈ es, ∃ r, e.state = .held r) :
    es.any Entry.isHeld = true := by
  obtain ⟨e, he, r, hr⟩ := h
  exact List.any_eq_true.mpr ⟨e, he, Entry.isHeld_of_held hr⟩

theorem not_any_isHeld {es : List Entry} (h : ∀ e ∈ es, e.state.hold = none) : ¬ es.any Entry.isHeld = true := by
  rw [List.any_eq_true]
  rintro ⟨e, he, hheld⟩
  simp [Entry.isHeld_of_no_hold (h e he)] at hheld

end

/-- Settles O35: BUCKET CLEAR by the case of its body and the sum of the entry counts; TABLE CLEAR by whether all
lanes are CLOSED, where the holds matched to lanes leave no HELD entry. -/
theorem clearingRequestsEmptyBuckets : Obligations.ClearingRequestsEmptyBuckets := by
  constructor
  · intro s f rest b0 b1 htakes ht hp b v
    have len : f.payload.length = 2 := by simp [hp]
    rw [exec_bucketClear]
    refine ⟨?_, fun hb => ⟨?_, ?_⟩⟩
    · intro hb
      exact htakes.act_serveFixed ht len s.part rfl (Wb610.clearBucket_of_out_of_range _ hp hb)
    · intro hheld
      exact htakes.act_serveFixed ht len s.part rfl (Wb610.clearBucket_of_held _ hp hb (any_isHeld_of_held hheld))
    · intro hfree
      refine ⟨?_, fun hsound => Table.entryCount_setBucket_empty hsound b⟩
      exact htakes.act_serveFixed ht len { s.part with table := s.part.table.setBucket b .empty } rfl
        (Wb610.clearBucket_of_unheld _ hp hb (not_any_isHeld hfree))
  · intro s f rest htakes ht hp
    have len : f.payload.length = 0 := by simp [hp]
    rw [exec_tableClear]
    constructor
    · intro hclosed
      refine ⟨?_, fun _ => rfl, fun hsound b e he => hsound.no_hold_of_closed hclosed he⟩
      exact htakes.act_serveFixed ht len { s.part with table := .empty } rfl
        (Wb610.clearTable_of_closed _ (s.part.allClosed_iff.mpr hclosed))
    · rintro ⟨l, hopen⟩
      have not_closed : ¬ s.part.allClosed = true := fun h =>
        (s.part.allClosed_iff.mp h l).elim hopen
      exact htakes.act_serveFixed ht len s.part rfl (Wb610.clearTable_of_not_closed _ not_closed)

end Sys2Proof.Machine
end

