-- ==== Sys2Proof/Proofs/Arrivals.lean ====
section
/-! Arrivals by the state of the lane (R63-R68) and REMOTE PRESENT (R118). -/

namespace Sys2Proof.Machine

/-! ## What an arrival leaves of the request handler's queues -/

section
variable (p : Wb610) (l : LaneNo)

/-- The receive buffer and the response queue (R182, R183), which the admission cycle never touches. -/
def Wb610.requestQueues : List Frame × List Frame := (p.rxBuffer, p.responses)

theorem Wb610.settleWithoutHost_requestQueues : (p.settleWithoutHost l).requestQueues = p.requestQueues := by
  cases hslot : (p.lane l).slot with
  | none => rw [p.settleWithoutHost_of_none l hslot]
  | some q =>
    cases hcause : q.cause with
    | unknown => simp [Wb610.settleWithoutHost, hslot, hcause, Wb610.requestQueues]
    | suspect => simp [Wb610.settleWithoutHost, hslot, hcause, Wb610.requestQueues]
    | flagged =>
      cases hpolicy : p.settings.offlinePolicy <;>
        simp [Wb610.settleWithoutHost, hslot, hcause, hpolicy, Wb610.requestQueues]

theorem Wb610.foldl_settle_requestQueues (ls : List LaneNo) :
    (ls.foldl Wb610.settleWithoutHost p).requestQueues = p.requestQueues := by
  induction ls generalizing p with
  | nil => rfl
  | cons k ks ih => exact (ih (p.settleWithoutHost k)).trans (p.settleWithoutHost_requestQueues k)

theorem Wb610.settleAllWithoutHost_requestQueues : p.settleAllWithoutHost.requestQueues = p.requestQueues := by
  have settled := p.foldl_settle_requestQueues laneNos
  unfold Wb610.settleAllWithoutHost Wb610.eachLane
  generalize laneNos.foldl Wb610.settleWithoutHost p = q at settled ⊢
  exact settled

theorem Wb610.silenceTimeout_requestQueues : p.silenceTimeout.requestQueues = p.requestQueues := by
  cases hs : p.silence with
  | none => rw [p.silenceTimeout_of_stopped hs]
  | some t =>
    cases ho : p.online with
    | false => simp [Wb610.silenceTimeout, hs, ho, Wb610.requestQueues]
    | true =>
      simp only [Wb610.silenceTimeout, hs, ho, if_true, Wb610.settleAllWithoutHost_requestQueues]
      simp [Wb610.requestQueues]

theorem Wb610.atOpening_requestQueues (lost : Bool) : (p.atOpening lost).requestQueues = p.requestQueues := by
  rcases p.atOpening_cases lost with h | ⟨-, h⟩
  · rw [h]
  · rw [h, p.silenceTimeout_requestQueues]

theorem Wb610.openQuery_requestQueues (k : Key) (purpose : Purpose) (cause : QueryCause) :
    (p.openQuery l k purpose cause).requestQueues = p.requestQueues := by
  unfold Wb610.openQuery
  simp only
  split
  · rfl
  · rw [Wb610.settleWithoutHost_requestQueues]
    rfl

theorem Wb610.refuse_requestQueues (r : Reason) : (p.refuse l r).requestQueues = p.requestQueues := by
  simp [Wb610.requestQueues]

/-- Whatever its outcome, a claim leaves the request handler's queues as they stand. -/
theorem Wb610.claim_requestQueues (q : Presentation) (lost : Bool) :
    (p.claim l q lost).requestQueues = p.requestQueues := by
  unfold Wb610.claim
  cases judge p.view (p.lane l).config p.table q with
  | refuse r => exact p.refuse_requestQueues l r
  | spendAndRefuse => exact Wb610.refuse_requestQueues _ l _
  | verifyUnheld cause purpose => rw [Wb610.openQuery_requestQueues, Wb610.atOpening_requestQueues]
  | verifyFlagged =>
    rw [Wb610.openQuery_requestQueues, Wb610.atOpening_requestQueues]
    rfl
  | admitHolder purpose offlineAdmit => rfl

/-! ## Repeats and tones (R64, R162) -/

/-- R64: the repeats as the statements name them. -/
theorem Lane.isRepeat_iff (x : Lane) (k : Key) :
    x.isRepeat k = true ↔
      x.current.map (·.key) = some k ∨ x.next.map (·.presentation.key) = some k
        ∨ ∃ t, x.repeatMemory = some { key := k, timer := some t } := by
  have memory : (x.repeatMemory.any fun m => decide (m.key = k) && m.timer.isSome) = true
      ↔ ∃ t, x.repeatMemory = some { key := k, timer := some t } := by
    cases x.repeatMemory with
    | none => simp
    | some m =>
      obtain ⟨key, timer⟩ := m
      cases timer <;> simp
  simp only [Lane.isRepeat, Bool.or_eq_true, memory, or_assoc, Option.any_eq_true, Option.map_eq_some_iff,
    decide_eq_true_eq]

/-- R162: outside FREE a request for a tone sets the pattern played by the rule for tones. -/
theorem Lane.requestTone_of_not_free {x : Lane} (t : Tone) (h : x.state.isFree = false) :
    x.requestTone t = { x with signals := { x.signals with tone := toneAfter x.signals.tone t } } := by
  unfold Lane.requestTone toneAfter
  rw [h]
  split
  · contradiction
  · split <;> rfl

/-! ## An arrival by the lane's state (R63-R68) -/

section
variable {p l} {q : Presentation} {lost : Bool}

theorem Wb610.arrive_of_not_serving
    (h : (∃ c, (p.lane l).state = .closed c) ∨ ∃ c, (p.lane l).state = .test c) :
    p.arrive l q lost = (p.modLane l (Lane.requestTone .error), .notOpen) := by
  rcases h with ⟨c, hs⟩ | ⟨c, hs⟩ <;> simp only [Wb610.arrive, hs]

theorem Wb610.arrive_of_free {r : Remembered} (h : (p.lane l).state = .free r) :
    p.arrive l q lost = (p, .notOpen) := by
  simp only [Wb610.arrive, h]

theorem Wb610.arrive_of_repeat (ho : (p.lane l).state.isOpen = true) (hr : (p.lane l).isRepeat q.key = true) :
    p.arrive l q lost = (p, .repeated) := by
  cases hs : (p.lane l).state with
  | idle | verifying | released _ | refusing _ => simp only [Wb610.arrive, hs, hr, if_true]
  | passing _ => simp only [Wb610.arrive, hs, hr, if_true, ite_self]
  | closed _ | free _ | test _ => simp [hs, LaneState.isOpen] at ho

theorem Wb610.arrive_of_idle (hs : (p.lane l).state = .idle) (hr : ¬ (p.lane l).isRepeat q.key = true) :
    p.arrive l q lost = ((p.modLane l fun x => { x with current := some q }).claim l q lost, .taken) := by
  simp only [Wb610.arrive, hs, if_neg hr]

theorem Wb610.arrive_of_busy
    (hs : (p.lane l).state = .verifying ∨ (∃ t, (p.lane l).state = .released t)
      ∨ (∃ t, (p.lane l).state = .refusing t)
      ∨ ((∃ t, (p.lane l).state = .passing t) ∧ (p.lane l).closePending = none))
    (hr : ¬ (p.lane l).isRepeat q.key = true) :
    p.arrive l q lost = (p.modLane l (Lane.putNext p.settings q), .taken) := by
  rcases hs with hs | ⟨t, hs⟩ | ⟨t, hs⟩ | ⟨⟨t, hs⟩, hc⟩
  · simp only [Wb610.arrive, hs, if_neg hr]
  · simp only [Wb610.arrive, hs, if_neg hr]
  · simp only [Wb610.arrive, hs, if_neg hr]
  · simp [Wb610.arrive, hs, hc, hr]

theorem Wb610.arrive_of_closing {t : Ticks} (hs : (p.lane l).state = .passing t)
    (hc : (p.lane l).closePending ≠ none) (hr : ¬ (p.lane l).isRepeat q.key = true) :
    p.arrive l q lost = (p.refuseNotReady l q.key, .taken) := by
  have marked : (p.lane l).closePending.isSome = true := Option.isSome_iff_ne_none.mpr hc
  simp only [Wb610.arrive, hs, marked, if_true, if_neg hr]

end

/-- An arrival leaves the request handler's queues as they stand. -/
theorem Wb610.arrive_requestQueues (q : Presentation) (lost : Bool) :
    (p.arrive l q lost).1.requestQueues = p.requestQueues := by
  cases hs : (p.lane l).state with
  | closed c => rw [Wb610.arrive_of_not_serving (.inl ⟨c, hs⟩)]; rfl
  | test c => rw [Wb610.arrive_of_not_serving (.inr ⟨c, hs⟩)]; rfl
  | free r => rw [Wb610.arrive_of_free hs]
  | idle =>
    by_cases hr : (p.lane l).isRepeat q.key = true
    · rw [Wb610.arrive_of_repeat (by simp [hs, LaneState.isOpen]) hr]
    · rw [Wb610.arrive_of_idle hs hr]
      exact Wb610.claim_requestQueues _ l q lost
  | verifying | released _ | refusing _ =>
    by_cases hr : (p.lane l).isRepeat q.key = true
    · rw [Wb610.arrive_of_repeat (by simp [hs, LaneState.isOpen]) hr]
    · rw [Wb610.arrive_of_busy (by simp [hs]) hr]
      rfl
  | passing t =>
    by_cases hr : (p.lane l).isRepeat q.key = true
    · rw [Wb610.arrive_of_repeat (by simp [hs, LaneState.isOpen]) hr]
    · by_cases hc : (p.lane l).closePending = none
      · rw [Wb610.arrive_of_busy (by simp [hs, hc]) hr]
        rfl
      · rw [Wb610.arrive_of_closing hs hc hr]
        simp [Wb610.refuseNotReady, Wb610.requestQueues]

end

/-! ## What an arrival writes, as the statements write it -/

section
variable (p : Wb610) (l : LaneNo) (q : Presentation)

theorem Settings.ageTime_eq (c : Settings) : c.ageTime = 512000 * c.ageLimit :=
  (Nat.mul_assoc 512 1000 c.ageLimit).symm

theorem Settings.repeatTime_eq (c : Settings) : c.repeatTime = 51200 * c.repeatWindow :=
  (Nat.mul_assoc 512 100 c.repeatWindow).symm

theorem Lane.putNext_eq (c : Settings) (x : Lane) :
    x.putNext c q = { x with next := some { presentation := q, age := some (512000 * c.ageLimit) } } := by
  rw [Lane.putNext, c.ageTime_eq]

theorem Lane.remember_countRefusal_eq (c : Settings) (k : Key) (x : Lane) :
    Lane.remember c k x.countRefusal
      = { x with
          counters := (x.afterRefusal c k).counters
          repeatMemory := (x.afterRefusal c k).repeatMemory } := by
  rw [Lane.remember, c.repeatTime_eq]
  rfl

theorem Wb610.refuseNotReady_eq (k : Key) :
    p.refuseNotReady l k
      = (p.setLane l
          { p.lane l with
            counters := ((p.lane l).afterRefusal p.settings k).counters
            repeatMemory := ((p.lane l).afterRefusal p.settings k).repeatMemory }).report .refused (some l) 18 0
          (.credential k) := by
  rw [← Lane.remember_countRefusal_eq]
  rfl

end

/-! ## REMOTE PRESENT (R118) -/

section
variable (p : Wb610) (l : LaneNo) {f : Frame} {b : Byte} {k : Key} {lost : Bool}

theorem exec_remotePresent (s : State) :
    exec (.remotePresent lost) s = s.act fun p => p.serveFixed 0x31#8 12 (Wb610.remotePresent lost) := rfl

theorem keyAt_cons (b : Byte) (bytes : List Byte) (n : Nat) : keyAt (b :: bytes) (n + 1) = keyAt bytes n := rfl

theorem laneOf_val (l : LaneNo) : laneOf l.val = some l := dif_pos l.isLt

theorem laneOf_of_ge {n : Nat} (h : 10 ≤ n) : laneOf n = none := dif_neg (Nat.not_lt.mpr h)

theorem remoteKeyOf_of_unlisted_kind {kind : Byte} (body : List Byte) (h : kind = 0 ∨ 4 < kind.toNat) :
    remoteKeyOf (b :: kind :: body) = none := by
  rw [remoteKeyOf, keyAt_cons, keyAt_of_unlisted_kind body h]

theorem remoteKeyOf_record (b : Byte) (k : Key) :
    remoteKeyOf (b :: k.record) = if k.kind ≠ .barcode ∧ k.paddingZero = true then some k else none := by
  rw [remoteKeyOf, keyAt_cons, keyAt_record]

/-- R118: with no lane or no card key there is no arrival. -/
theorem Wb610.remotePresent_of_bad (h : laneOf (byteAt f.payload 0) = none ∨ remoteKeyOf f.payload = none) :
    p.remotePresent lost f = p.respond f .badValue [] := by
  rcases h with h | h
  · simp only [Wb610.remotePresent, h]
  · cases hl : laneOf (byteAt f.payload 0) <;> simp only [Wb610.remotePresent, h, hl]

/-- R118: a lane whose card source is not REMOTE takes no presentation from the host. -/
theorem Wb610.remotePresent_of_other_source (hl : laneOf (byteAt f.payload 0) = some l)
    (hk : remoteKeyOf f.payload = some k) (hsource : (p.lane l).config.cardSource ≠ .remote) :
    p.remotePresent lost f = p.respond f .badValue [] := by
  simp only [Wb610.remotePresent, hl, hk, if_neg hsource]

/-- R118: at a REMOTE lane the key arrives, and the answer is the outcome. -/
theorem Wb610.remotePresent_of_remote (hl : laneOf (byteAt f.payload 0) = some l)
    (hk : remoteKeyOf f.payload = some k) (hsource : (p.lane l).config.cardSource = .remote) :
    p.remotePresent lost f
      = (p.arrive l { key := k, source := .remote } lost).1.respond f
          (p.arrive l { key := k, source := .remote } lost).2.result [] := by
  simp only [Wb610.remotePresent, hl, hk, if_pos hsource]

end

/-- Settles O24: the request by its checks, its arrival leaving the handler's queues alone; then the arrival by the
lane's state (`Wb610.arrive_of_…`). -/
theorem arrivalsByLaneState : Obligations.ArrivalsByLaneState := by
  refine ⟨?_, ?_, ?_⟩
  · intro s f rest b kind body lost htakes ht hp hlen hkind
    have len : f.payload.length = 12 := by simp [hp, hlen]
    have no_key : remoteKeyOf f.payload = none := by rw [hp]; exact remoteKeyOf_of_unlisted_kind body hkind
    rw [exec_remotePresent]
    exact htakes.act_serveFixed ht len s.part rfl (Wb610.remotePresent_of_bad _ (.inr no_key))
  · intro s f rest b k lost htakes ht hp
    have len : f.payload.length = 12 := by rw [hp, List.length_cons, k.record_length]
    have lane_byte : byteAt f.payload 0 = b.toNat := by rw [hp, byteAt_head]
    have key : remoteKeyOf f.payload = if k.kind ≠ .barcode ∧ k.paddingZero = true then some k else none := by
      rw [hp, remoteKeyOf_record]
    rw [exec_remotePresent]
    constructor
    · intro hbad
      have unread : laneOf (byteAt f.payload 0) = none ∨ remoteKeyOf f.payload = none := by
        rw [lane_byte, key]
        exact hbad.imp laneOf_of_ge fun h => if_neg (by rcases h with h | h <;> simp [h])
      exact htakes.act_serveFixed ht len s.part rfl (Wb610.remotePresent_of_bad _ unread)
    · intro l hb hkind hpad
      have hl : laneOf (byteAt f.payload 0) = some l := by rw [lane_byte, hb, laneOf_val]
      have hk : remoteKeyOf f.payload = some k := by rw [key, if_pos ⟨hkind, hpad⟩]
      constructor
      · intro hsource
        exact htakes.act_serveFixed ht len s.part rfl (Wb610.remotePresent_of_other_source _ l hl hk hsource)
      · intro hsource done
        have queues : done.1.requestQueues = (rest, s.part.responses) :=
          Wb610.arrive_requestQueues { s.part with rxBuffer := rest } l _ lost
        obtain ⟨buffer, responses⟩ := Prod.mk.inj queues
        have answered : ({ s with part := done.1.respond f done.2.result [] } : State)
            = s.answered rest done.1 (f.reply done.2.result.code []) :=
          s.respond_eq_answered f rest done.1 buffer responses done.2.result []
        have arrived : Wb610.remotePresent lost { s.part with rxBuffer := rest } f
            = done.1.respond f done.2.result [] := Wb610.remotePresent_of_remote _ l hl hk hsource
        rw [State.act_eq, htakes.serveFixed _ ht len, arrived, answered]
        cases done.2 <;> rfl
  · intro p l q lost x repeated
    have decided : repeated ↔ (p.lane l).isRepeat q.key = true := (Lane.isRepeat_iff _ _).symm
    rw [decided]
    refine ⟨?_, ?_, ?_, ?_, ?_, ?_⟩
    · intro hs
      have not_free : x.state.isFree = false := by
        rcases hs with ⟨c, hs⟩ | ⟨c, hs⟩ <;> simp [hs, LaneState.isFree]
      rw [Wb610.arrive_of_not_serving hs, Wb610.modLane, Lane.requestTone_of_not_free _ not_free]
    · rintro ⟨r, hs⟩
      exact Wb610.arrive_of_free hs
    · exact Wb610.arrive_of_repeat
    · intro hr hs
      exact Wb610.arrive_of_idle hs hr
    · intro hr hs
      rw [Wb610.arrive_of_busy hs hr, Wb610.modLane, Lane.putNext_eq]
    · rintro hr ⟨t, hs⟩ hc
      rw [Wb610.arrive_of_closing hs hc hr, Wb610.refuseNotReady_eq]

end Sys2Proof.Machine
end

