-- ==== Sys2Proof/Proofs/Passages.lean ====
section
/-! Passage start and passage complete with a hold (R59, R60, R86). -/

namespace Sys2Proof.Machine

/-! ## A lane whose outputs follow, written and changed again -/

section
variable (p : Wb610) (l : LaneNo) {y : Lane}

theorem Wb610.lane_setLane_of_follows (h : y.OutputsFollow) : (p.setLane l y).lane l = y := by
  rw [Wb610.lane_setLane_same, Lane.sync_of_follows _ h]

theorem Wb610.modLane_setLane_of_follows (h : y.OutputsFollow) (f : Lane → Lane) :
    (p.setLane l y).modLane l f = p.setLane l (f y) := by
  rw [Wb610.modLane, p.lane_setLane_of_follows l h, Wb610.setLane_setLane]

/-- R98, R159: RELEASED and PASSING release the lock and show GO alike. -/
theorem Lane.follows_enterPassing {t : Ticks} (h : y.OutputsFollow) (hs : y.state = .released t) (c : Settings) :
    (y.enterPassing c).OutputsFollow := by
  obtain ⟨lock, shown, flash⟩ := h
  rw [hs] at lock shown
  exact ⟨lock, shown, flash⟩

end

/-! ## The end of a passage (R60, R69) -/

section
variable (p : Wb610) (l : LaneNo) {y : Lane} (lost : Bool)

theorem Wb610.leavePassing_setLane (h : y.OutputsFollow) :
    (p.setLane l y).leavePassing l lost = p.passageEnded l y lost := by
  have written := p.modLane_setLane_of_follows l h
  unfold Wb610.leavePassing Wb610.returnToIdle Wb610.passageEnded
  simp only [p.lane_setLane_of_follows l h, written]
  cases y.closePending with
  | some cause => rfl
  | none =>
    rcases y.next with _ | ⟨q, _ | age⟩ <;> rfl

end

/-! ## The hold committed (R24, R25, R60) -/

section
variable (p : Wb610) (l : LaneNo) {y : Lane} {k : Key} {e : Entry} {h : HoldRecord} {now : Nat}

theorem Table.key_of_find {t : Table} (hf : t.find k = some e) : e.key = k := by
  simpa using List.find?_some hf

/-- R148: the journal record of a commit at a lane that holds the entry of `k`. -/
theorem Wb610.commitRecord_setLane (hy : y.OutputsFollow) (hf : p.table.find k = some e)
    (hclock : p.clock = some now) :
    (p.setLane l y).commitRecord l e h
      = { sequence := p.nextSequence, time := now, lane := l, purpose := h.purpose, key := k, cls := e.cls
          revoked := h.revokePending, double := h.enteredElsewhere, verified := y.verified
          offlineAdmit := y.offlineAdmit } := by
  simp [Wb610.commitRecord, p.lane_setLane_of_follows l hy, Table.key_of_find hf, Wb610.now, hclock]

theorem Wb610.commitHold_setLane (hy : y.OutputsFollow) (hh : y.hold = some k) (hf : p.table.find k = some e)
    (he : e.state = .held h) :
    (p.setLane l y).commitHold l
      = ({ p with table := p.table.modify k (Entry.commit p.now p.settings.passoutSeconds) }.appendJournal
            ((p.setLane l y).commitRecord l e h)).setLane l
          { y.holdEnded with counters := y.counters.countPassage h.purpose } := by
  have held : e.state.hold = some h := by rw [he]; rfl
  have written := Wb610.modLane_setLane_of_follows
    ({ p with table := p.table.modify k (Entry.commit p.now p.settings.passoutSeconds) }.appendJournal
      ((p.setLane l y).commitRecord l e h)) l hy
  simp only [Wb610.commitHold, p.lane_setLane_of_follows l hy, hh, Wb610.setLane_table, hf, held]
  exact written _

/-- R60: passage complete, told from the lane that passes. -/
theorem Wb610.completePassage_setLane (lost : Bool) (hy : y.OutputsFollow) (hh : y.hold = some k)
    (hf : p.table.find k = some e) (he : e.state = .held h) (hclock : p.clock = some now) :
    (p.setLane l y).completePassage l lost
      = ({ p with table := p.table.modify k (Entry.commit now p.settings.passoutSeconds) }.appendJournal
            { sequence := p.nextSequence, time := now, lane := l, purpose := h.purpose, key := k, cls := e.cls
              revoked := h.revokePending, double := h.enteredElsewhere, verified := y.verified
              offlineAdmit := y.offlineAdmit }).passageEnded l
          { y.holdEnded with rotor := y.rotor.complete, counters := y.counters.countPassage h.purpose } lost := by
  have clock : p.now = now := by rw [Wb610.now, hclock]; rfl
  have rested : ({ y with rotor := y.rotor.complete } : Lane).OutputsFollow := hy
  rw [Wb610.completePassage, p.modLane_setLane_of_follows l hy, p.commitHold_setLane l rested hh hf he,
    p.commitRecord_setLane l rested hf hclock, clock]
  exact Wb610.leavePassing_setLane _ l lost hy

end

/-! ## Steps forward (R83, R85, R86) -/

section
variable (p : Wb610) (l : LaneNo) {y : Lane} {a b lost : Bool}

theorem lineChange_of_forwardRow {c d : Bool} (h : (c, d, a, b) ∈ forwardRows) : lineChange c d a b = .forward := by
  revert h
  revert a b c d
  decide

theorem exec_rotorLineChange (s : State) :
    exec (.rotorLineChange l a b lost) s = .next { s with part := s.part.rotorLines l a b lost } := rfl

/-- R83: a row of the decoding table with step +1 is a step forward, the recorded pair following the lines. -/
theorem Wb610.rotorLines_of_forwardRow
    (h : ((p.lane l).rotor.lineA, (p.lane l).rotor.lineB, a, b) ∈ forwardRows) :
    p.rotorLines l a b lost
      = (p.setLane l
          { p.lane l with rotor := { (p.lane l).rotor with lineA := a, lineB := b } }).forwardStep l lost := by
  simp only [Wb610.rotorLines, lineChange_of_forwardRow h]
  rfl

theorem Rotor.stepForward_eq (r : Rotor) :
    r.stepForward
      = { r with
          offset := r.offset + 1
          peak := if (r.peak : Int) < r.offset + 1 then (r.offset + 1).toNat else r.peak } := by
  have peak : max r.peak (r.offset + 1).toNat
      = if (r.peak : Int) < r.offset + 1 then (r.offset + 1).toNat else r.peak := by
    split <;> omega
  rw [Rotor.stepForward, peak]

/-- R85: the lane after a step forward, before anything comes of it. -/
def Lane.stepForward (x : Lane) : Lane := { x with rotor := x.rotor.stepForward }

/-- R88: a completion at 36 leaves a rest position. -/
theorem Lane.complete_stepForward (h36 : y.rotor.offset + 1 = 36) :
    y.stepForward.rotor.complete = { y.rotor with offset := 0, peak := 0 } := by
  simp [Lane.stepForward, Rotor.stepForward, Rotor.complete, h36]

/-- R88, R92: the same where the lane enters PASSING at that step. -/
theorem Lane.complete_enterPassing_stepForward (c : Settings) (h36 : y.rotor.offset + 1 = 36) :
    (y.stepForward.enterPassing c).rotor.complete = { y.rotor with offset := 0, peak := 0, forced := false } := by
  simp [Lane.enterPassing, Lane.stepForward, Rotor.stepForward, Rotor.complete, h36]

theorem Lane.follows_stepForward (hy : y.OutputsFollow) : y.stepForward.OutputsFollow := hy

theorem Wb610.modLane_stepForward (hy : y.OutputsFollow) :
    ((p.setLane l y).modLane l fun x => { x with rotor := x.rotor.stepForward }) = p.setLane l y.stepForward :=
  p.modLane_setLane_of_follows l hy _

/-- R59, R86: a RELEASED lane enters PASSING at an offset of 6 or more. -/
theorem Wb610.forwardStep_of_start {t : Ticks} (hy : y.OutputsFollow) (hs : y.state = .released t)
    (h6 : 6 ≤ y.rotor.offset + 1) (h36 : y.rotor.offset + 1 ≠ 36) :
    (p.setLane l y).forwardStep l lost = p.setLane l (y.stepForward.enterPassing p.settings) := by
  have stepped := Lane.follows_stepForward hy
  have state : y.stepForward.state = .released t := hs
  have offset : y.stepForward.rotor.offset = y.rotor.offset + 1 := rfl
  simp only [Wb610.forwardStep, p.modLane_stepForward l hy, p.lane_setLane_of_follows l stepped, state, offset,
    if_pos h6, if_neg h36, p.modLane_setLane_of_follows l stepped, Wb610.setLane_settings]

/-- R86: a RELEASED lane that carried an offset of 35 enters PASSING and completes. -/
theorem Wb610.forwardStep_of_start_at_end {t : Ticks} (hy : y.OutputsFollow) (hs : y.state = .released t)
    (h36 : y.rotor.offset + 1 = 36) :
    (p.setLane l y).forwardStep l lost
      = (p.setLane l (y.stepForward.enterPassing p.settings)).completePassage l lost := by
  have stepped := Lane.follows_stepForward hy
  have state : y.stepForward.state = .released t := hs
  have offset : y.stepForward.rotor.offset = 36 := h36
  have reached : (6 : Int) ≤ 36 := by decide
  simp only [Wb610.forwardStep, p.modLane_stepForward l hy, p.lane_setLane_of_follows l stepped, state, offset,
    if_pos reached, if_true, p.modLane_setLane_of_follows l stepped, Wb610.setLane_settings]

/-- R60, R88: a PASSING lane completes at 36. -/
theorem Wb610.forwardStep_of_end {t : Ticks} (hy : y.OutputsFollow) (hs : y.state = .passing t)
    (h36 : y.rotor.offset + 1 = 36) :
    (p.setLane l y).forwardStep l lost = (p.setLane l y.stepForward).completePassage l lost := by
  have stepped := Lane.follows_stepForward hy
  have state : y.stepForward.state = .passing t := hs
  have offset : y.stepForward.rotor.offset = 36 := h36
  simp only [Wb610.forwardStep, p.modLane_stepForward l hy, p.lane_setLane_of_follows l stepped, state, offset,
    if_true]

theorem Settings.passageTime_eq (c : Settings) : c.passageTime = 512000 * c.passageLimit :=
  (Nat.mul_assoc 512 1000 c.passageLimit).symm

theorem Lane.enterPassing_stepForward (c : Settings) (x : Lane) :
    x.stepForward.enterPassing c
      = { x with
          state := .passing (512000 * c.passageLimit)
          rotor :=
            { x.rotor with
              offset := x.rotor.offset + 1, forced := false
              peak := if (x.rotor.peak : Int) < x.rotor.offset + 1 then (x.rotor.offset + 1).toNat
                else x.rotor.peak } } := by
  rw [Lane.enterPassing, Lane.stepForward, Rotor.stepForward_eq, c.passageTime_eq]

end

/-- Settles O38: the step by its thresholds (`Wb610.forwardStep_of_…`), then the commit and the end of the passage
(`Wb610.completePassage_setLane`). -/
theorem passageStartsAndCommits : Obligations.PassageStartsAndCommits := by
  intro s l a b lost p x r hrow hx
  have lines : ({ x with rotor := { r with lineA := a, lineB := b } } : Lane).OutputsFollow := hx
  rw [exec_rotorLineChange, Wb610.rotorLines_of_forwardRow _ l hrow]
  constructor
  · intro t hs h6 h36
    rw [Wb610.forwardStep_of_start _ l lines hs h6 h36, Lane.enterPassing_stepForward]
  · intro k e h now hs h36 hh hf he hclock
    rcases hs with ⟨t, hs⟩ | ⟨t, hs⟩
    · have stepped := Lane.follows_stepForward lines
      have rest := Lane.complete_stepForward (y := { x with rotor := { r with lineA := a, lineB := b } }) h36
      rw [Wb610.forwardStep_of_end _ l lines hs h36,
        Wb610.completePassage_setLane _ l lost stepped hh hf he hclock, rest, hs]
      cases h.purpose <;> rfl
    · have stepped := Lane.follows_enterPassing (Lane.follows_stepForward lines) hs p.settings
      have rest := Lane.complete_enterPassing_stepForward p.settings
        (y := { x with rotor := { r with lineA := a, lineB := b } }) h36
      rw [Wb610.forwardStep_of_start_at_end _ l lines hs h36,
        Wb610.completePassage_setLane _ l lost stepped hh hf he hclock, rest, hs]
      cases h.purpose <;> rfl

end Sys2Proof.Machine
end

