-- ==== Sys2Proof/Proofs/LaneWrites.lean ====
section
/-! SUPPORT. A lane written and changed again, a report placed beside it, a hold released: what the rotor's steps and
faults are made of. -/

namespace Sys2Proof.Machine

variable (p : Wb610) (l : LaneNo) {y : Lane}

/-- R187: a report writes the report queue and the count of those dropped, and reads the clock besides. -/
theorem Wb610.report_eq (k : ReportKind) (o : Option LaneNo) (a b : Nat) (c : ReportKey) :
    p.report k o a b c
      = { p with
          reports :=
            if p.reports.length < 128 then
              p.reports ++ [{ kind := k, lane := o, time := p.clock, reason := a, count := b, key := c }]
            else p.reports
          dropCount := if p.reports.length < 128 then p.dropCount else addOne16 p.dropCount } := by
  by_cases room : p.reports.length < 128
  · rw [Wb610.report, p.placeReport_of_room _ room, if_pos room, if_pos room]
  · rw [Wb610.report, p.placeReport_of_full _ (Nat.le_of_not_lt room), if_neg room, if_neg room]

/-- R187: a report and the write of a lane touch different parts of the gate. -/
theorem Wb610.report_setLane (k : ReportKind) (o : Option LaneNo) (a b : Nat) (c : ReportKey) :
    (p.setLane l y).report k o a b c = (p.report k o a b c).setLane l y := by
  rw [Wb610.report_eq, Wb610.report_eq]
  rfl

/-- R26, R187: a report and the release of an entry touch different parts of the gate. -/
theorem Wb610.released_report (k : ReportKind) (o : Option LaneNo) (a b : Nat) (c : ReportKey) (key : Key) :
    (p.report k o a b c).released key = (p.released key).report k o a b c := by
  rw [Wb610.report_eq, Wb610.report_eq]
  rfl

/-- R26: the hold of a lane released: the entry settled, the hold reference and the admission flags ended. -/
theorem Wb610.releaseHold_setLane {k : Key} (hy : y.OutputsFollow) (hh : y.hold = some k) :
    (p.setLane l y).releaseHold l = (p.released k).setLane l y.holdEnded := by
  simp only [Wb610.releaseHold, p.lane_setLane_of_follows l hy, hh]
  exact (p.released k).modLane_setLane_of_follows l hy Lane.dropHold

/-- R83: a lane whose recorded pair has followed the lines. -/
def Lane.onLines (a b : Bool) (x : Lane) : Lane := { x with rotor := { x.rotor with lineA := a, lineB := b } }

/-! ## Changes on which no output depends -/

/-- A change of a lane that comes to the same whether the lane's outputs were set before it or not. -/
def Lane.OutputFree (f : Lane → Lane) : Prop := ∀ x : Lane, (f x.sync).sync = (f x).sync

theorem Wb610.modLane_setLane_of_outputFree {f : Lane → Lane} (h : Lane.OutputFree f) :
    (p.setLane l y).modLane l f = p.setLane l (f y) := by
  rw [Wb610.modLane, Wb610.lane_setLane_same, Wb610.setLane_setLane, Wb610.setLane, h y, Wb610.setLane]

theorem Lane.OutputFree.comp {f g : Lane → Lane} (hg : Lane.OutputFree g) (hf : Lane.OutputFree f) :
    Lane.OutputFree fun x => g (f x) := fun x => by
  rw [← hg (f x.sync), hf x, hg (f x)]

/-- R98, R159: no output reads the rotor, the counters or the tone. -/
theorem Lane.outputFree_moved (f : Rotor → Rotor) (g : Counters → Counters) (h : Option Playing → Option Playing) :
    Lane.OutputFree fun x =>
      { x with
        rotor := f x.rotor, counters := g x.counters
        signals := { x.signals with tone := h x.signals.tone } } := by
  intro x
  by_cases shown : x.signals.shown = signalFor x.signals.commanded x.state <;>
    simp [Lane.sync, SignalUnit.display, shown]

theorem Lane.outputFree_rotor (f : Rotor → Rotor) : Lane.OutputFree fun x => { x with rotor := f x.rotor } :=
  Lane.outputFree_moved f id id

theorem Lane.outputFree_rotor_counters (f : Rotor → Rotor) (g : Counters → Counters) :
    Lane.OutputFree fun x => { x with rotor := f x.rotor, counters := g x.counters } :=
  Lane.outputFree_moved f g id

/-- R162: a request for a tone reads no output, for it is dropped or taken by the lane state and the tone played. -/
theorem Lane.outputFree_requestTone (t : Tone) : Lane.OutputFree (Lane.requestTone t) := by
  intro x
  simp only [Lane.requestTone, Lane.sync_state, Lane.sync_tone]
  split
  · exact Lane.outputFree_moved id id id x
  · split
    · exact Lane.outputFree_moved id id id x
    · exact Lane.outputFree_moved id id (fun _ => some { pattern := t, left := t.length }) x

/-! ## ATTENTION (R162) -/

/-- R162: a lane outside FREE after a request for ATTENTION. -/
def Lane.warned (x : Lane) : Lane :=
  { x with signals := { x.signals with tone := toneAfter x.signals.tone .attention } }

theorem Lane.requestTone_attention (h : y.state.isFree = false) : y.requestTone .attention = y.warned :=
  Lane.requestTone_of_not_free .attention h

theorem Wb610.modLane_requestAttention (h : y.state.isFree = false) :
    (p.setLane l y).modLane l (Lane.requestTone .attention) = p.setLane l y.warned := by
  rw [p.modLane_setLane_of_outputFree l (Lane.outputFree_requestTone .attention), Lane.requestTone_attention h]

theorem toneAfter_attention_twice (playing : Option Playing) :
    toneAfter (toneAfter playing .attention) .attention = toneAfter playing .attention := by
  by_cases attention : playing.any (fun p => decide (p.pattern = .attention)) <;> simp [toneAfter, attention]

/-- R162: a second request for ATTENTION is dropped. -/
theorem Lane.warned_warned (x : Lane) : x.warned.warned = x.warned := by
  simp only [Lane.warned, toneAfter_attention_twice]

end Sys2Proof.Machine
end

