-- ==== Sys2Proof/Proofs/Backturns.lean ====
section
/-! Backward movement to the backturn threshold (R87, R89, R92, R95). -/

namespace Sys2Proof.Machine

/-! ## Steps back (R83, R92) -/

section
variable (p : Wb610) (l : LaneNo) {y : Lane} {a b lost : Bool}

theorem lineChange_of_backwardRow {c d : Bool} (h : (c, d, a, b) ∈ backwardRows) :
    lineChange c d a b = .backward := by
  revert h
  revert a b c d
  decide

/-- R83: a row of the decoding table with step -1 is a step back, the recorded pair following the lines. -/
theorem Wb610.rotorLines_of_backwardRow
    (h : ((p.lane l).rotor.lineA, (p.lane l).rotor.lineB, a, b) ∈ backwardRows) :
    p.rotorLines l a b lost
      = (p.setLane l ((p.lane l).onLines a b)).backwardStep l lost := by
  simp only [Wb610.rotorLines, lineChange_of_backwardRow h]
  rfl

/-- R85: the lane after a step back, before anything comes of it. -/
def Lane.stepBack (x : Lane) : Lane := { x with rotor := x.rotor.stepBack }

/-- R87, R92, R95: the lane at the rest position that a step back to the threshold gives it. -/
def Lane.backAtRest (x : Lane) : Lane := { x with rotor := { x.rotor with offset := 0, peak := 0, forced := false } }

theorem Lane.follows_stepBack (hy : y.OutputsFollow) : y.stepBack.OutputsFollow := hy

theorem Lane.follows_backAtRest (hy : y.OutputsFollow) : y.backAtRest.OutputsFollow := hy

/-- R92: an episode in progress has ended by the time the threshold is reached. -/
theorem Lane.rest_stepBack (h4 : y.rotor.offset - 1 = -4) :
    ({ y.stepBack with rotor := y.stepBack.rotor.rest } : Lane) = y.backAtRest := by
  simp [Lane.stepBack, Lane.backAtRest, Rotor.stepBack, Rotor.rest, h4]

theorem Wb610.modLane_stepBack (hy : y.OutputsFollow) :
    ((p.setLane l y).modLane l fun x => { x with rotor := x.rotor.stepBack }) = p.setLane l y.stepBack :=
  p.modLane_setLane_of_follows l hy _

theorem Wb610.modLane_rest_stepBack (hy : y.OutputsFollow) (h4 : y.rotor.offset - 1 = -4) :
    ((p.setLane l y.stepBack).modLane l fun x => { x with rotor := x.rotor.rest }) = p.setLane l y.backAtRest := by
  rw [p.modLane_setLane_of_follows l (Lane.follows_stepBack hy), Lane.rest_stepBack h4]

end

/-! ## The threshold by the lane's state (R87, R89, R95) -/

section
variable (p : Wb610) (l : LaneNo) {y : Lane} {t : Ticks} {c : Presentation} {lost : Bool}

/-- R87, R89: the report reads the key of CURRENT and touches no lane. -/
theorem Wb610.reportBackturn_setLane (hy : y.OutputsFollow) (hc : y.current = some c) (peak : Nat) :
    (p.setLane l y).reportBackturn l peak
      = (p.report .backturn (some l) 0 peak (.credential c.key)).setLane l y := by
  have key : y.currentKey = .credential c.key := by rw [Lane.currentKey, hc]; rfl
  rw [Wb610.reportBackturn, p.lane_setLane_of_follows l hy, key, Wb610.report_setLane]

/-- R87: a RELEASED lane reports a backturn, asks for ATTENTION and stays RELEASED. -/
theorem Wb610.backwardStep_of_released (hy : y.OutputsFollow) (hs : y.state = .released t)
    (hc : y.current = some c) (h4 : y.rotor.offset - 1 = -4) :
    (p.setLane l y).backwardStep l lost
      = (p.report .backturn (some l) 0 y.rotor.peak (.credential c.key)).setLane l y.backAtRest.warned := by
  have stepped := Lane.follows_stepBack hy
  have rest := Lane.follows_backAtRest hy
  have state : y.stepBack.state = .released t := hs
  have reached : y.stepBack.rotor.offset = -4 := h4
  have heard : y.backAtRest.state.isFree = false := congrArg LaneState.isFree hs
  simp only [Wb610.backwardStep, p.modLane_stepBack l hy, p.lane_setLane_of_follows l stepped, if_pos reached, state,
    p.modLane_rest_stepBack l hy h4]
  rw [p.reportBackturn_setLane l rest hc, Wb610.modLane_requestAttention _ l heard]
  rfl

/-- R89: a PASSING lane reports a backturn, releases its hold, asks for ATTENTION and leaves PASSING. -/
theorem Wb610.backwardStep_of_passing {k : Key} (hy : y.OutputsFollow) (hs : y.state = .passing t)
    (hh : y.hold = some k) (hc : y.current = some c) (h4 : y.rotor.offset - 1 = -4) :
    (p.setLane l y).backwardStep l lost
      = ((p.released k).report .backturn (some l) 0 y.rotor.peak (.credential c.key)).passageEnded l
          y.backAtRest.warned.holdEnded lost := by
  have stepped := Lane.follows_stepBack hy
  have rest := Lane.follows_backAtRest hy
  have state : y.stepBack.state = .passing t := hs
  have reached : y.stepBack.rotor.offset = -4 := h4
  have heard : y.backAtRest.holdEnded.state.isFree = false := congrArg LaneState.isFree hs
  have leaves : y.backAtRest.holdEnded.warned.OutputsFollow := hy
  simp only [Wb610.backwardStep, p.modLane_stepBack l hy, p.lane_setLane_of_follows l stepped, if_pos reached, state,
    p.modLane_rest_stepBack l hy h4]
  rw [p.reportBackturn_setLane l rest hc, Wb610.releaseHold_setLane _ l rest hh, Wb610.released_report,
    Wb610.modLane_requestAttention _ l heard, Wb610.leavePassing_setLane _ l lost leaves]
  rfl

/-- R95, R96: any other lane takes a new rest position and makes nothing else of it. -/
theorem Wb610.backwardStep_of_not_admitted (hy : y.OutputsFollow)
    (hs : ∀ t, y.state ≠ .released t ∧ y.state ≠ .passing t) (h4 : y.rotor.offset - 1 = -4) :
    (p.setLane l y).backwardStep l lost = p.setLane l y.backAtRest := by
  have stepped := Lane.follows_stepBack hy
  have reached : y.stepBack.rotor.offset = -4 := h4
  simp only [Wb610.backwardStep, p.modLane_stepBack l hy, p.lane_setLane_of_follows l stepped, if_pos reached,
    p.modLane_rest_stepBack l hy h4]
  split
  · next t released => exact absurd released (hs t).1
  · next t passing => exact absurd passing (hs t).2
  all_goals rfl

end

/-- Settles O39: the step at the threshold by the lane's state (`Wb610.backwardStep_of_…`). -/
theorem backturnsByLaneState : Obligations.BackturnsByLaneState := by
  intro s l a b lost p x r rested warned hrow h4 hx
  have lines : (x.onLines a b).OutputsFollow := hx
  rw [exec_rotorLineChange, Wb610.rotorLines_of_backwardRow _ l hrow]
  refine ⟨fun t c hs hc => ?_, fun t k c hs hh hc => ?_, fun hs => ?_⟩
  · rw [Wb610.backwardStep_of_released _ l lines hs hc h4, Wb610.report_setLane]
    rfl
  · rw [Wb610.backwardStep_of_passing _ l lines hs hh hc h4]
    rfl
  · rw [Wb610.backwardStep_of_not_admitted _ l lines hs h4]
    rfl

end Sys2Proof.Machine
end

