-- ==== Sys2Proof/Proofs/UnadmittedMovement.lean ====
section
/-! Forward movement that nobody was let in for (R90, R91, R93, R94, R96). -/

namespace Sys2Proof.Machine

/-! ## Lanes that let nobody in (R90) -/

theorem LaneState.isUnadmitted_iff (st : LaneState) :
    st.isUnadmitted = true
      ↔ (∃ c, st = .closed c) ∨ st = .idle ∨ st = .verifying ∨ ∃ t, st = .refusing t := by
  cases st <;> simp [LaneState.isUnadmitted]

theorem LaneState.isFree_of_isUnadmitted {st : LaneState} (h : st.isUnadmitted = true) : st.isFree = false := by
  rcases st.isUnadmitted_iff.mp h with ⟨c, rfl⟩ | rfl | rfl | ⟨t, rfl⟩ <;> rfl

/-! ## What each kind of movement makes of the lane -/

section
variable (p : Wb610) (l : LaneNo) {y : Lane}

/-- R90: a lane whose forced episode begins. -/
def Lane.episodeBegun (x : Lane) : Lane := { x with rotor := { x.rotor with forced := true } }

/-- R91, R92: a lane after an unpaid passage: a rest position, the forced episode ended, the passage counted. -/
def Lane.passedUnpaid (x : Lane) : Lane :=
  { x with
    rotor := { x.rotor.complete with forced := false }
    counters := { x.counters with unpaid := addOne32 x.counters.unpaid } }

/-- R90: a forced episode begins with its report and ATTENTION. -/
theorem Wb610.beginForced_setLane (h : y.state.isFree = false) :
    (p.setLane l y).beginForced l = (p.report .forced (some l) 0 0 .none).setLane l y.episodeBegun.warned := by
  have begins : Lane.OutputFree fun x => Lane.requestTone .attention x.episodeBegun :=
    (Lane.outputFree_requestTone .attention).comp (Lane.outputFree_rotor fun r => { r with forced := true })
  have heard : y.episodeBegun.state.isFree = false := h
  have written := (p.report .forced (some l) 0 0 .none).modLane_setLane_of_outputFree l (y := y) begins
  rw [Wb610.beginForced, Wb610.report_setLane, ← Lane.requestTone_attention heard]
  exact written

/-- R91: an unpaid passage is counted, reported and followed by ATTENTION. -/
theorem Wb610.unpaidPassage_setLane (h : y.state.isFree = false) :
    (p.setLane l y).unpaidPassage l = (p.report .unpaid (some l) 0 0 .none).setLane l y.passedUnpaid.warned := by
  have passes : Lane.OutputFree Lane.passedUnpaid :=
    Lane.outputFree_rotor_counters (fun r => { r.complete with forced := false })
      fun c => { c with unpaid := addOne32 c.unpaid }
  have moved : ((p.setLane l y).modLane l Lane.passedUnpaid) = p.setLane l y.passedUnpaid :=
    p.modLane_setLane_of_outputFree l passes
  have heard : y.passedUnpaid.state.isFree = false := h
  calc (p.setLane l y).unpaidPassage l
    _ = (((p.setLane l y).modLane l Lane.passedUnpaid).report .unpaid (some l) 0 0 .none).modLane l
          (Lane.requestTone .attention) := rfl
    _ = (p.report .unpaid (some l) 0 0 .none).setLane l y.passedUnpaid.warned := by
      rw [moved, Wb610.report_setLane, Wb610.modLane_requestAttention _ l heard]

/-- R91: an episode that begins at the unpaid passage ends with it, and its ATTENTION is the only one. -/
theorem Lane.passedUnpaid_episodeBegun (x : Lane) :
    x.episodeBegun.warned.passedUnpaid.warned = x.passedUnpaid.warned :=
  x.passedUnpaid.warned_warned

/-- R93: a free exit is a new rest position and one count more. -/
theorem Wb610.freeExitPassage_setLane :
    (p.setLane l y).freeExitPassage l
      = p.setLane l
          { y with
            rotor := y.rotor.complete
            counters := { y.counters with freeExits := addOne32 y.counters.freeExits } } :=
  p.modLane_setLane_of_outputFree l
    (Lane.outputFree_rotor_counters Rotor.complete fun c => { c with freeExits := addOne32 c.freeExits })

/-- R94, R169: an emergency passage is a new rest position and one count more at the lane and in the tally. -/
theorem Wb610.emergencyPassage_setLane :
    (p.setLane l y).emergencyPassage l
      = { p with tally := addOne16 p.tally }.setLane l
          { y with
            rotor := y.rotor.complete
            counters := { y.counters with emergency := addOne32 y.counters.emergency } } :=
  Wb610.modLane_setLane_of_outputFree { p with tally := addOne16 p.tally } l
    (Lane.outputFree_rotor_counters Rotor.complete fun c => { c with emergency := addOne32 c.emergency })

end

/-! ## The step forward by the lane's state (R85, R90-R94, R96) -/

section
variable (p : Wb610) (l : LaneNo) {y : Lane} {lost : Bool}

/-- R85: the step forward itself, whatever the lane's outputs show. -/
theorem Wb610.modLane_stepForward_rotor :
    ((p.setLane l y).modLane l fun x => { x with rotor := x.rotor.stepForward }) = p.setLane l y.stepForward :=
  p.modLane_setLane_of_outputFree l (Lane.outputFree_rotor Rotor.stepForward)

/-- R90, R91: at an ENTRY lane an episode begins at 6 unless one is in progress, and the passage at 36 is unpaid. -/
theorem Wb610.forwardStep_of_entry (hs : y.state.isUnadmitted = true) (hd : y.config.direction = .entry) :
    (p.setLane l y).forwardStep l lost
      = let moved := p.setLane l y.stepForward
        let begun := if 6 ≤ y.rotor.offset + 1 ∧ y.rotor.forced = false then moved.beginForced l else moved
        if y.rotor.offset + 1 = 36 then begun.unpaidPassage l else begun := by
  have offset : y.stepForward.rotor.offset = y.rotor.offset + 1 := rfl
  have forced : y.stepForward.rotor.forced = y.rotor.forced := rfl
  have direction : y.stepForward.config.direction = .entry := hd
  have state : y.stepForward.state.isUnadmitted = true := hs
  simp only [Wb610.forwardStep, p.modLane_stepForward_rotor l, Wb610.lane_setLane_same, Lane.sync_rotor,
    Lane.sync_state, Lane.sync_config]
  rcases (LaneState.isUnadmitted_iff _).mp state with ⟨c, e⟩ | e | e | ⟨t, e⟩ <;>
    simp only [e, direction, offset, forced]

/-- R90: a forced episode that begins short of the completion threshold. -/
theorem Wb610.forwardStep_of_forced (hs : y.state.isUnadmitted = true) (hd : y.config.direction = .entry)
    (h6 : 6 ≤ y.rotor.offset + 1) (h36 : y.rotor.offset + 1 ≠ 36) (hf : y.rotor.forced = false) :
    (p.setLane l y).forwardStep l lost
      = (p.report .forced (some l) 0 0 .none).setLane l y.stepForward.episodeBegun.warned := by
  have heard : y.stepForward.state.isFree = false := LaneState.isFree_of_isUnadmitted hs
  simp only [p.forwardStep_of_entry l hs hd, if_pos (And.intro h6 hf), if_neg h36, p.beginForced_setLane l heard]

/-- R91: an unpaid passage; an episode that is not yet in progress begins first. -/
theorem Wb610.forwardStep_of_unpaid (hs : y.state.isUnadmitted = true) (hd : y.config.direction = .entry)
    (h36 : y.rotor.offset + 1 = 36) :
    (p.setLane l y).forwardStep l lost
      = ((if y.rotor.forced then p else p.report .forced (some l) 0 0 .none).report .unpaid (some l) 0 0
          .none).setLane l y.stepForward.passedUnpaid.warned := by
  have reached : (6 : Int) ≤ 36 := by decide
  have heard : y.stepForward.state.isFree = false := LaneState.isFree_of_isUnadmitted hs
  have begun : y.stepForward.episodeBegun.warned.state.isFree = false := heard
  simp only [p.forwardStep_of_entry l hs hd, h36, reached, true_and, if_true]
  cases y.rotor.forced with
  | true => exact p.unpaidPassage_setLane l heard
  | false =>
    rw [if_pos rfl, p.beginForced_setLane l heard, Wb610.unpaidPassage_setLane _ l begun,
      Lane.passedUnpaid_episodeBegun]
    rfl

/-- R93: at an EXIT lane the passage at 36 is a free exit. -/
theorem Wb610.forwardStep_of_freeExit (hs : y.state.isUnadmitted = true) (hd : y.config.direction = .exit)
    (h36 : y.rotor.offset + 1 = 36) :
    (p.setLane l y).forwardStep l lost = (p.setLane l y.stepForward).freeExitPassage l := by
  have offset : y.stepForward.rotor.offset = 36 := h36
  have direction : y.stepForward.config.direction = .exit := hd
  have state : y.stepForward.state.isUnadmitted = true := hs
  simp only [Wb610.forwardStep, p.modLane_stepForward_rotor l, Wb610.lane_setLane_same, Lane.sync_rotor,
    Lane.sync_state, Lane.sync_config]
  rcases (LaneState.isUnadmitted_iff _).mp state with ⟨c, e⟩ | e | e | ⟨t, e⟩ <;>
    simp only [e, direction, offset, if_true]

/-- R94: in FREE the passage at 36 is an emergency passage. -/
theorem Wb610.forwardStep_of_free {back : Remembered} (hs : y.state = .free back) (h36 : y.rotor.offset + 1 = 36) :
    (p.setLane l y).forwardStep l lost = (p.setLane l y.stepForward).emergencyPassage l := by
  have offset : y.stepForward.rotor.offset = 36 := h36
  have state : y.stepForward.state = .free back := hs
  simp only [Wb610.forwardStep, p.modLane_stepForward_rotor l, Wb610.lane_setLane_same, Lane.sync_rotor,
    Lane.sync_state, state, offset, if_true]

/-- R96: in TEST the passage at 36 is nothing but a new rest position. -/
theorem Wb610.forwardStep_of_test {cause : ClosedCause} (hs : y.state = .test cause)
    (h36 : y.rotor.offset + 1 = 36) :
    (p.setLane l y).forwardStep l lost
      = p.setLane l { y.stepForward with rotor := y.stepForward.rotor.complete } := by
  have offset : y.stepForward.rotor.offset = 36 := h36
  have state : y.stepForward.state = .test cause := hs
  simp only [Wb610.forwardStep, p.modLane_stepForward_rotor l, Wb610.lane_setLane_same, Lane.sync_rotor,
    Lane.sync_state, state, offset, if_true,
    p.modLane_setLane_of_outputFree l (Lane.outputFree_rotor Rotor.complete)]

end

/-- Settles O40: the step by the lane's state and direction (`Wb610.forwardStep_of_…`), then what the movement makes of
the lane (`Wb610.…_setLane`) at the rest position of R88. -/
theorem forwardMovementWithoutAHold : Obligations.ForwardMovementWithoutAHold := by
  intro s l a b lost p x r more round warned hrow
  have stepped : p.rotorLines l a b lost = (p.setLane l (x.onLines a b)).forwardStep l lost :=
    p.rotorLines_of_forwardRow l hrow
  have rest := Lane.complete_stepForward (y := x.onLines a b)
  rw [exec_rotorLineChange, stepped]
  refine ⟨fun hs hd => ⟨fun h6 h36 hf => ?_, fun h36 => ?_⟩, fun hs hd h36 => ?_, fun back hs h36 => ?_,
    fun cause hs h36 => ?_⟩
  · rw [Wb610.forwardStep_of_forced p l (y := x.onLines a b) hs hd h6 h36 hf, Wb610.report_setLane, Lane.stepForward,
      Rotor.stepForward_eq]
    rfl
  · rw [Wb610.forwardStep_of_unpaid p l (y := x.onLines a b) hs hd h36, Lane.passedUnpaid, rest h36]
    intro passed
    have forced : (x.onLines a b).rotor.forced = r.forced := rfl
    rw [forced]
    by_cases begun : r.forced = true
    · rw [if_pos begun, if_pos begun, Wb610.report_setLane]
      rfl
    · rw [if_neg begun, if_neg begun, Wb610.report_setLane, Wb610.report_setLane]
      rfl
  · rw [Wb610.forwardStep_of_freeExit p l (y := x.onLines a b) hs hd h36, Wb610.freeExitPassage_setLane, rest h36]
    rfl
  · rw [Wb610.forwardStep_of_free p l (y := x.onLines a b) hs h36, Wb610.emergencyPassage_setLane, rest h36]
    rfl
  · rw [Wb610.forwardStep_of_test p l (y := x.onLines a b) hs h36, rest h36]
    rfl

end Sys2Proof.Machine
end

