-- ==== Sys2Proof/Proofs/EncoderFaults.lean ====
section
/-! Encoder faults by the state of the lane and the closure at the eighth (R78, R84). -/

namespace Sys2Proof.Machine

/-! ## A lane closed at once (R74, R78, R134) -/

section
variable (p : Wb610) (l : LaneNo) {y : Lane}

/-- R124, R134: the gate when a lane's query, if it has one, is cancelled: its waiting message leaves the queue. -/
def Wb610.queryCancelled (p : Wb610) : Option Query → Wb610
  | none => p
  | some q => { p with verifyQueue := p.verifyQueue.filter fun m => m.tag ≠ q.tag }

/-- R26: the gate when a lane's hold, if it has one, is released. -/
def Wb610.holdSettled (p : Wb610) : Option Key → Wb610
  | none => p
  | some k => p.released k

theorem Wb610.queryCancelled_holdSettled (q : Option Query) (k : Option Key) :
    (p.queryCancelled q).holdSettled k = (p.holdSettled k).queryCancelled q := by
  cases q <;> cases k <;> rfl

theorem Wb610.dropQuery_setLane (hy : y.OutputsFollow) :
    (p.setLane l y).dropQuery l = (p.queryCancelled y.slot).setLane l { y with slot := none } := by
  cases hq : y.slot with
  | none =>
    have empty : ({ y with slot := none } : Lane) = y := by rw [← hq]
    have slot : ((p.setLane l y).lane l).slot = none := by rw [p.lane_setLane_of_follows l hy, hq]
    rw [Wb610.dropQuery_of_none _ l slot, empty]
    rfl
  | some q =>
    have written := (p.queryCancelled (some q)).modLane_setLane_of_follows l hy fun x => { x with slot := none }
    simp only [Wb610.dropQuery, p.lane_setLane_of_follows l hy, hq, ← decide_not]
    exact written

/-- R26, R74: a lane that closes ends its hold first. -/
theorem Wb610.close_releaseHold_setLane (cause : ClosedCause) (hy : y.OutputsFollow) :
    ((p.setLane l y).releaseHold l).modLane l (Lane.close cause)
      = (p.holdSettled y.hold).setLane l ({ y with hold := none }.afterClosing cause) := by
  cases hh : y.hold with
  | none =>
    have unheld : ({ y with hold := none } : Lane) = y := by rw [← hh]
    have kept : (p.setLane l y).releaseHold l = p.setLane l y := by
      simp only [Wb610.releaseHold, p.lane_setLane_of_follows l hy, hh]
    rw [kept, unheld]
    exact p.modLane_setLane_of_follows l hy (Lane.close cause)
  | some k =>
    have ended : y.holdEnded.OutputsFollow := hy
    rw [p.releaseHold_setLane l hy hh]
    exact (p.released k).modLane_setLane_of_follows l ended (Lane.close cause)

/-- R74: the lane's query cancelled, its hold released, CLOSED with the cause. -/
theorem Wb610.closeLane_setLane (cause : ClosedCause) (hy : y.OutputsFollow) :
    (p.setLane l y).closeLane l cause
      = ((p.holdSettled y.hold).queryCancelled y.slot).setLane l
          ({ y with hold := none, slot := none }.afterClosing cause) := by
  have quiet : ({ y with slot := none } : Lane).OutputsFollow := hy
  rw [Wb610.closeLane, p.dropQuery_setLane l hy, ← Wb610.queryCancelled_holdSettled]
  exact (p.queryCancelled y.slot).close_releaseHold_setLane l cause quiet

end

/-! ## The eighth fault (R78) -/

section
variable (p : Wb610) (l : LaneNo) {y : Lane} {a b lost : Bool}

theorem LaneState.isOpen_iff (st : LaneState) :
    st.isOpen = true
      ↔ st = .idle ∨ st = .verifying ∨ (∃ t, st = .released t) ∨ (∃ t, st = .passing t) ∨ ∃ t, st = .refusing t := by
  cases st <;> simp [LaneState.isOpen]

/-- R78: an open lane closes with cause FAULT, and the closure is reported. -/
theorem Wb610.faultClosure_of_open (hy : y.OutputsFollow) (ho : y.state.isOpen = true) :
    (p.setLane l y).faultClosure l = ((p.setLane l y).closeLane l .fault).report .laneFault (some l) 0 8 .none := by
  unfold Wb610.faultClosure
  rw [p.lane_setLane_of_follows l hy]
  rcases y.state.isOpen_iff.mp ho with e | e | ⟨t, e⟩ | ⟨t, e⟩ | ⟨t, e⟩ <;> rw [e]

/-- R78: a FREE lane that is remembered as open is marked to close with cause FAULT, and the mark is reported. -/
theorem Wb610.faultClosure_of_wasOpen (hy : y.OutputsFollow) (hs : y.state = .free .wasOpen) :
    (p.setLane l y).faultClosure l
      = (p.setLane l { y with closePending := some .fault }).report .laneFault (some l) 0 8 .none := by
  have marked := p.modLane_setLane_of_follows l hy fun x => { x with closePending := some .fault }
  rw [← marked]
  simp only [Wb610.faultClosure, p.lane_setLane_of_follows l hy, hs]

/-- R78: a lane that is CLOSED, or FREE and remembered as closed, makes nothing of it. -/
theorem Wb610.faultClosure_of_closed (hy : y.OutputsFollow)
    (hs : (∃ c, y.state = .closed c) ∨ ∃ c, y.state = .free (.wasClosed c)) :
    (p.setLane l y).faultClosure l = p.setLane l y := by
  rcases hs with ⟨c, e⟩ | ⟨c, e⟩ <;> simp only [Wb610.faultClosure, p.lane_setLane_of_follows l hy, e]

/-! ## An encoder fault (R83, R84) -/

theorem lineChange_of_both {c d : Bool} (hc : c ≠ a) (hd : d ≠ b) : lineChange c d a b = .fault := by
  simp [lineChange, hc, hd]

/-- R83, R84: both lines changed is an encoder fault, the recorded pair following the lines. -/
theorem Wb610.rotorLines_of_both (ha : (p.lane l).rotor.lineA ≠ a) (hb : (p.lane l).rotor.lineB ≠ b) :
    p.rotorLines l a b lost = (p.setLane l ((p.lane l).onLines a b)).encoderFault l := by
  simp only [Wb610.rotorLines, lineChange_of_both ha hb]
  rfl

/-- R84: a lane that has counted one encoder fault more. -/
def Lane.faultCounted (x : Lane) : Lane := { x with rotor := { x.rotor with faults := addOne16 x.rotor.faults } }

theorem Lane.follows_faultCounted (hy : y.OutputsFollow) : y.faultCounted.OutputsFollow := hy

theorem Wb610.encoderFault_of_test {cause : ClosedCause} (hy : y.OutputsFollow) (hs : y.state = .test cause) :
    (p.setLane l y).encoderFault l = p.setLane l y := by
  simp only [Wb610.encoderFault, p.lane_setLane_of_follows l hy, hs]

/-- R84: outside TEST a fault is counted and reported, and the lane is told of the eighth. -/
theorem Wb610.encoderFault_of_not_test (hy : y.OutputsFollow) (hs : ∀ cause, y.state ≠ .test cause) :
    (p.setLane l y).encoderFault l
      = let told := (p.report .rotorFault (some l) 0 (addOne16 y.rotor.faults) .none).setLane l y.faultCounted
        if addOne16 y.rotor.faults = 8 then told.faultClosure l else told := by
  have counted : ((p.setLane l y).modLane l fun x =>
      { x with rotor := { x.rotor with faults := addOne16 y.rotor.faults } }) = p.setLane l y.faultCounted :=
    p.modLane_setLane_of_follows l hy _
  unfold Wb610.encoderFault
  rw [p.lane_setLane_of_follows l hy]
  simp only [counted, Wb610.report_setLane]
  split
  · next cause test => exact absurd test (hs cause)
  all_goals rfl

end

/-- Settles O41: the fault by the lane's state (`Wb610.encoderFault_of_…`), then the closure at the eighth
(`Wb610.faultClosure_of_…`, `Wb610.closeLane_setLane`). -/
theorem encoderFaultsByLaneState : Obligations.EncoderFaultsByLaneState := by
  intro s l a b lost p x r count told y ha hb hx
  have lines : (x.onLines a b).OutputsFollow := hx
  have counted := Lane.follows_faultCounted lines
  have fault : p.rotorLines l a b lost = (p.setLane l (x.onLines a b)).encoderFault l := p.rotorLines_of_both l ha hb
  rw [exec_rotorLineChange, fault]
  refine ⟨fun cause hs => ?_, fun hs => ?_⟩
  · rw [Wb610.encoderFault_of_test p l lines hs]
    rfl
  have reported : (p.setLane l (x.onLines a b)).encoderFault l
      = if count = 8 then (told.setLane l y).faultClosure l else told.setLane l y :=
    p.encoderFault_of_not_test l lines hs
  have follows : y.OutputsFollow := hx
  rw [reported]
  refine ⟨fun hc => ?_, fun h8 hw => ?_, fun h8 ho => ?_⟩
  · have silent : count = 8 → (told.setLane l y).faultClosure l = told.setLane l y := fun h8 =>
      told.faultClosure_of_closed l follows (hc.resolve_left (not_not_intro h8))
    rw [ite_eq_right_iff.mpr silent]
  · rw [if_pos h8, told.faultClosure_of_wasOpen l follows hw]
  · rw [if_pos h8, told.faultClosure_of_open l follows ho, told.closeLane_setLane l .fault follows]
    rfl

end Sys2Proof.Machine
end

