-- ==== Sys2Proof/Proofs/Settlements.lean ====
section
/-! SUPPORT. How a lane settles what it has in CURRENT, told from the lane that settles it: a refusal (R49, R57,
R72), an admission (R56, R57, R58), and the query that goes before either (R124). -/

namespace Sys2Proof.Machine

variable (p : Wb610) (l : LaneNo) {y : Lane} {c : Presentation}

theorem Settings.refusalTime_eq (t : Settings) : t.refusalTime = 51200 * t.refusalDisplay :=
  (Nat.mul_assoc 512 100 t.refusalDisplay).symm

theorem Settings.admitTime_eq (t : Settings) : t.admitTime = 512000 * t.admitWindow :=
  (Nat.mul_assoc 512 1000 t.admitWindow).symm

/-- R57, R162: REFUSING is not FREE, so the request for REFUSE is heard. -/
theorem Lane.refuse_eq (t : Settings) (hc : y.current = some c) : y.refuse t = y.afterRefusal t c.key := by
  have decided : (y.enterRefusing t).countRefusal.rememberCurrent t
      = (y.enterRefusing t).countRefusal.remember t c.key := by
    simp only [Lane.rememberCurrent, Lane.countRefusal, Lane.enterRefusing, hc]
  rw [Lane.refuse, decided, Lane.requestTone_of_not_free .refuse rfl, Lane.remember, t.repeatTime_eq,
    Lane.enterRefusing, t.refusalTime_eq]
  rfl

/-- R57, R162: RELEASED is not FREE, so the request for ACCEPT is heard. -/
theorem Lane.admitHolder_eq (t : Settings) (verified offlineAdmit : Bool) (hc : y.current = some c) :
    y.admitHolder t verified offlineAdmit = y.afterAdmission t c.key verified offlineAdmit := by
  have decided : ({ y with verified := verified, offlineAdmit := offlineAdmit }.enterReleased t).rememberCurrent t
      = ({ y with verified := verified, offlineAdmit := offlineAdmit }.enterReleased t).remember t c.key := by
    simp only [Lane.rememberCurrent, Lane.enterReleased, hc]
  rw [Lane.admitHolder, decided, Lane.requestTone_of_not_free .accept rfl, Lane.remember, t.repeatTime_eq,
    Lane.enterReleased, t.admitTime_eq]
  rfl

theorem Wb610.refuse_setLane (hy : y.OutputsFollow) (hc : y.current = some c) (r : Reason) :
    (p.setLane l y).refuse l r
      = (p.setLane l (y.afterRefusal p.settings c.key)).report .refused (some l) r.code 0 (.credential c.key) := by
  have key : y.currentKey = .credential c.key := by simp only [Lane.currentKey, hc, Option.elim]
  rw [Wb610.refuse, p.modLane_setLane_of_follows l hy, p.lane_setLane_of_follows l hy, key, Lane.refuse_eq _ hc,
    Wb610.setLane_settings]

theorem Wb610.admitHolder_setLane (hy : y.OutputsFollow) (hc : y.current = some c) (verified offlineAdmit : Bool) :
    (p.setLane l y).admitHolder l verified offlineAdmit
      = p.setLane l (y.afterAdmission p.settings c.key verified offlineAdmit) := by
  rw [Wb610.admitHolder, p.modLane_setLane_of_follows l hy, Lane.admitHolder_eq _ _ _ hc, Wb610.setLane_settings]

/-- R124: an occupied slot emptied, the query's waiting message gone. -/
theorem Wb610.dropQuery_of_slot {q : Query} (hq : (p.lane l).slot = some q) :
    p.dropQuery l = (p.queryCancelled (some q)).setLane l { p.lane l with slot := none } := by
  simp only [Wb610.dropQuery, hq, ← decide_not]
  rfl

/-- R26: a lane without a hold has none to release. -/
theorem Wb610.releaseHold_of_none (hh : (p.lane l).hold = none) : p.releaseHold l = p := by
  simp only [Wb610.releaseHold, hh]

/-- R183, R187: a report does not read the receive buffer. -/
theorem Wb610.report_with_rxBuffer (rest : List Frame) (k : ReportKind) (o : Option LaneNo) (a b : Nat)
    (key : ReportKey) :
    { p with rxBuffer := rest }.report k o a b key = { p.report k o a b key with rxBuffer := rest } := by
  rw [Wb610.report_eq, Wb610.report_eq]

end Sys2Proof.Machine
end

