-- ==== Sys2Proof/Proofs/VerdictForm.lean ====
section
/-! SUPPORT. The form of a VERDICT, the query its tag matches, and the request around them (R126, R127). -/

namespace Sys2Proof.Machine

/-! ## The form (R126) -/

section
variable {payload record : List Byte} {tag v : Byte}

theorem byteAt_cons (b : Byte) (bytes : List Byte) (n : Nat) : byteAt (b :: bytes) (n + 1) = byteAt bytes n := rfl

theorem verdictFormOk_iff :
    verdictFormOk payload = true
      ↔ ((payload.length = 3 ∧ payload[2]? = some 0) ∨ (payload.length = 35 ∧ payload[2]? = some 1))
        ∧ (payload[1]? = some 1 ∨ payload[1]? = some 2) := by
  rcases payload with _ | ⟨b0, _ | ⟨b1, _ | ⟨b2, rest⟩⟩⟩
  case cons.cons.cons =>
    have verdict : inRange 1 2 b1.toNat = true ↔ b1 = 1 ∨ b1 = 2 := by
      simp only [inRange, Bool.and_eq_true, decide_eq_true_eq]
      bv_omega
    have absent : b2.toNat = 0 ↔ b2 = 0 := by bv_omega
    have present : b2.toNat = 1 ↔ b2 = 1 := by bv_omega
    simp only [verdictFormOk, byteAt_cons, byteAt_head, Bool.and_eq_true, Bool.or_eq_true, decide_eq_true_eq, verdict,
      absent, present, List.getElem?_cons_succ, List.getElem?_cons_zero, Option.some.injEq]
  all_goals simp [verdictFormOk]

theorem byteAt_zero_of_getElem? (h : payload[0]? = some tag) : byteAt payload 0 = tag.toNat := by
  cases payload with
  | nil => simp at h
  | cons b rest => rw [byteAt_head, show b = tag by simpa using h]

/-- R126: a VERDICT of the verdict `v`, without a record or with one. -/
abbrev IsVerdict (tag v : Byte) (record payload : List Byte) : Prop :=
  payload = [tag, v, 0] ∨ (payload = tag :: v :: 1 :: record ∧ record.length = 32)

theorem IsVerdict.formOk (h : IsVerdict tag v record payload) (hv : v = 1 ∨ v = 2) :
    verdictFormOk payload = true := by
  have verdict : some v = some 1 ∨ some v = some 2 := hv.imp (congrArg some) (congrArg some)
  rw [verdictFormOk_iff]
  rcases h with rfl | ⟨rfl, hlen⟩
  · exact ⟨.inl ⟨rfl, rfl⟩, verdict⟩
  · exact ⟨.inr ⟨by simp [hlen], rfl⟩, verdict⟩

theorem IsVerdict.byteAt_tag (h : IsVerdict tag v record payload) : byteAt payload 0 = tag.toNat := by
  rcases h with rfl | ⟨rfl, -⟩ <;> exact byteAt_head _ _

theorem IsVerdict.byteAt_verdict (h : IsVerdict tag v record payload) : byteAt payload 1 = v.toNat := by
  rcases h with rfl | ⟨rfl, -⟩ <;> exact byteAt_head _ _

end

/-! ## The query a tag matches (R127) -/

section
variable (p : Wb610) {l : LaneNo} {q : Query}

theorem Wb610.matchQuery_of_slot (hq : (p.lane l).slot = some q) (hl : q.tag / 16 = l.val) :
    p.matchQuery q.tag = some (l, q) := by
  simp only [Wb610.matchQuery, hl, laneOf_val, hq, if_true]

/-- R127: a tag of no lane, or of a lane whose slot is empty or carries another tag. -/
theorem Wb610.matchQuery_eq_none {tag : Nat}
    (h : 160 ≤ tag ∨ ∃ l : LaneNo, tag / 16 = l.val ∧ ∀ q, (p.lane l).slot = some q → q.tag ≠ tag) :
    p.matchQuery tag = none := by
  rcases h with high | ⟨l, hl, other⟩
  · simp only [Wb610.matchQuery, laneOf_of_ge (show 10 ≤ tag / 16 by omega)]
  · cases hq : (p.lane l).slot with
    | none => simp only [Wb610.matchQuery, hl, laneOf_val, hq]
    | some q => simp only [Wb610.matchQuery, hl, laneOf_val, hq, if_neg (other q hq)]

end

/-! ## A verdict taken in its stages -/

section
variable (p : Wb610) {f : Frame} {l : LaneNo} {q : Query} {tag : Byte} {record : List Byte}

theorem Wb610.takeVerdict_of_bad_form (h : ¬ verdictFormOk f.payload = true) :
    p.takeVerdict f = p.respond f .badRequest [] := by
  rw [Wb610.takeVerdict, if_neg h]

theorem Wb610.takeVerdict_of_unmatched (h : verdictFormOk f.payload = true)
    (hm : p.matchQuery (byteAt f.payload 0) = none) : p.takeVerdict f = p.respond f .unmatched [] := by
  rw [Wb610.takeVerdict, if_pos h, hm]

theorem Wb610.takeVerdict_of_refuse (h : IsVerdict tag 2 record f.payload)
    (hm : p.matchQuery tag.toNat = some (l, q)) : p.takeVerdict f = p.verdictRefuse f l := by
  rw [Wb610.takeVerdict, if_pos (h.formOk (.inr rfl)), h.byteAt_tag, hm]
  exact if_pos h.byteAt_verdict

/-- R128, R129: what a matched ADMIT does follows from the cause of the query. -/
theorem Wb610.takeVerdict_of_admit (h : IsVerdict tag 1 record f.payload)
    (hm : p.matchQuery tag.toNat = some (l, q)) :
    p.takeVerdict f
      = if q.cause = .flagged then p.verdictAdmitFlagged f l else p.verdictAdmitUnheld f l q := by
  have not_refuse : byteAt f.payload 1 ≠ 2 := by rw [h.byteAt_verdict]; decide
  simp only [Wb610.takeVerdict, if_pos (h.formOk (.inl rfl)), h.byteAt_tag, hm, if_neg not_refuse]
  cases q.cause <;> rfl

end

/-! ## The request around the verdict (R183) -/

section
variable {s : State} {f : Frame} {rest : List Frame}

theorem State.Takes.exec_verdict (h : s.Takes f rest) (ht : f.type = 0x30#8) (q : Wb610)
    (hq : q.responses = s.part.responses) {code : ResultCode} {fields : List Byte}
    (hbody : { s.part with rxBuffer := rest }.takeVerdict f = { q with rxBuffer := rest }.respond f code fields) :
    exec .verdict s = .next (s.answered rest q (f.reply code.code fields)) := by
  have step : exec .verdict s
      = .next { s with part := s.part.serve (fun f => decide (f.type = 0x30#8)) Wb610.takeVerdict } := rfl
  rw [step, h.serve Wb610.takeVerdict (decide_eq_true ht), hbody]
  exact congrArg _ (s.respond_eq_answered f rest { q with rxBuffer := rest } rfl hq code fields)

/-- R131: a verdict that settles its query as a refusal. -/
theorem State.Takes.exec_verdict_of_refused (h : s.Takes f rest) (ht : f.type = 0x30#8) (q : Wb610) (l : LaneNo)
    (y : Lane) (r : Reason) (key : ReportKey) (hq : q.responses = s.part.responses)
    (hbody : { s.part with rxBuffer := rest }.takeVerdict f
      = (({ q with rxBuffer := rest }.setLane l y).report .refused (some l) r.code 0 key).respondSettled f l r.code) :
    exec .verdict s
      = .next (s.answered rest ((q.setLane l y).report .refused (some l) r.code 0 key)
          (f.reply 0 [byte l.val, byte r.code])) := by
  have placed : ({ q with rxBuffer := rest }.setLane l y).report .refused (some l) r.code 0 key
      = { (q.setLane l y).report .refused (some l) r.code 0 key with rxBuffer := rest } :=
    (q.setLane l y).report_with_rxBuffer rest ..
  rw [placed] at hbody
  exact h.exec_verdict (code := .ok) ht ((q.setLane l y).report .refused (some l) r.code 0 key)
    ((Wb610.report_responses ..).trans hq) hbody

/-- R131: a verdict that settles its query as an admission. -/
theorem State.Takes.exec_verdict_of_admitted (h : s.Takes f rest) (ht : f.type = 0x30#8) (q : Wb610) (l : LaneNo)
    (y : Lane) (hq : q.responses = s.part.responses)
    (hbody : { s.part with rxBuffer := rest }.takeVerdict f
      = ({ q with rxBuffer := rest }.setLane l y).respondSettled f l 0) :
    exec .verdict s = .next (s.answered rest (q.setLane l y) (f.reply 0 [byte l.val, 0])) :=
  h.exec_verdict (code := .ok) ht (q.setLane l y) hq hbody

end

end Sys2Proof.Machine
end

