-- ==== Sys2Proof/Proofs/Verdicts.lean ====
section
/-! VERDICT at the lane of the query it matches: REFUSE, ADMIT of a FLAGGED query, and ADMIT with the verified insert
(R27, R28, R128-R130). -/

namespace Sys2Proof.Machine

/-! ## A matched REFUSE (R130) -/

section
variable (p : Wb610) (f : Frame) {l : LaneNo} {q : Query} {c : Presentation}

theorem Wb610.dropQuery_refuse (hx : (p.lane l).OutputsFollow) (hq : (p.lane l).slot = some q)
    (hc : (p.lane l).current = some c) (r : Reason) :
    (p.dropQuery l).refuse l r
      = ((p.queryCancelled (some q)).setLane l
          ({ p.lane l with slot := none }.afterRefusal p.settings c.key)).report .refused (some l) r.code 0
          (.credential c.key) := by
  have quiet : ({ p.lane l with slot := none } : Lane).OutputsFollow := hx
  rw [p.dropQuery_of_slot l hq]
  exact Wb610.refuse_setLane _ l quiet hc r

theorem Wb610.verdictRefuse_of_unheld (hx : (p.lane l).OutputsFollow) (hq : (p.lane l).slot = some q)
    (hc : (p.lane l).current = some c) (hh : (p.lane l).hold = none) :
    p.verdictRefuse f l
      = (((p.queryCancelled (some q)).setLane l
          ({ p.lane l with slot := none }.afterRefusal p.settings c.key)).report .refused (some l) 15 0
          (.credential c.key)).respondSettled f l 15 := by
  have unheld : ((p.dropQuery l).lane l).hold = none := by
    rw [p.dropQuery_of_slot l hq, Wb610.lane_setLane_same]
    exact hh
  rw [Wb610.verdictRefuse, Wb610.releaseHold_of_none _ l unheld, p.dropQuery_refuse hx hq hc]
  rfl

theorem Wb610.verdictRefuse_of_held {k : Key} (hx : (p.lane l).OutputsFollow) (hq : (p.lane l).slot = some q)
    (hc : (p.lane l).current = some c) (hh : (p.lane l).hold = some k) :
    p.verdictRefuse f l
      = ((((p.released k).queryCancelled (some q)).setLane l
          ({ (p.lane l).holdEnded with slot := none }.afterRefusal p.settings c.key)).report .refused (some l) 15 0
          (.credential c.key)).respondSettled f l 15 := by
  have quiet : ({ p.lane l with slot := none } : Lane).OutputsFollow := hx
  have ended : ({ p.lane l with slot := none } : Lane).holdEnded.OutputsFollow := hx
  rw [Wb610.verdictRefuse, p.dropQuery_of_slot l hq, Wb610.releaseHold_setLane _ l quiet hh,
    Wb610.refuse_setLane _ l ended hc]
  rfl

end

/-- Settles O27: the request by its form and its tag; a matched REFUSE by the lane's hold
(`Wb610.verdictRefuse_of_…`). -/
theorem verdictUnmatchedOrRefused : Obligations.VerdictUnmatchedOrRefused := by
  constructor
  · intro s f rest h ht formOk
    constructor
    · intro bad
      exact h.exec_verdict ht s.part rfl (Wb610.takeVerdict_of_bad_form _ (mt verdictFormOk_iff.mp bad))
    · intro good tag htag nowhere
      have unmatched : ({ s.part with rxBuffer := rest } : Wb610).matchQuery (byteAt f.payload 0) = none := by
        rw [byteAt_zero_of_getElem? htag]
        exact Wb610.matchQuery_eq_none _ nowhere
      exact h.exec_verdict ht s.part rfl
        (Wb610.takeVerdict_of_unmatched _ (verdictFormOk_iff.mpr good) unmatched)
  · intro s f rest l q c tag record h ht hp p x hx _ hq htag hl hc waiting
    have refused : ({ p with rxBuffer := rest } : Wb610).takeVerdict f
        = ({ p with rxBuffer := rest } : Wb610).verdictRefuse f l :=
      Wb610.takeVerdict_of_refuse _ hp (htag ▸ Wb610.matchQuery_of_slot _ hq hl)
    constructor
    · intro hh
      exact h.exec_verdict_of_refused ht (p.queryCancelled (some q)) l _ .hostRefused _ rfl
        (refused.trans (Wb610.verdictRefuse_of_unheld _ f hx hq hc hh))
    · intro k hh
      exact h.exec_verdict_of_refused ht ((p.released k).queryCancelled (some q)) l _ .hostRefused _ rfl
        (refused.trans (Wb610.verdictRefuse_of_held _ f hx hq hc hh))

/-! ## A matched ADMIT of a FLAGGED query (R128) -/

section
variable (p : Wb610) (f : Frame) {l : LaneNo} {q : Query} {c : Presentation}

theorem Wb610.verdictAdmitFlagged_of_follows (hx : (p.lane l).OutputsFollow) (hq : (p.lane l).slot = some q)
    (hc : (p.lane l).current = some c) :
    p.verdictAdmitFlagged f l
      = ((p.queryCancelled (some q)).setLane l
          ({ p.lane l with slot := none }.afterAdmission p.settings c.key true false)).respondSettled f l 0 := by
  have quiet : ({ p.lane l with slot := none } : Lane).OutputsFollow := hx
  rw [Wb610.verdictAdmitFlagged, p.dropQuery_of_slot l hq, Wb610.admitHolder_setLane _ l quiet hc]
  rfl

end

/-- Settles O28: the hold stands, the lane admits (`Wb610.verdictAdmitFlagged_of_follows`). -/
theorem verdictAdmitsFlagged : Obligations.VerdictAdmitsFlagged := by
  intro s f rest l q c tag record h ht hp p x hx _ hq htag hl hc hcause
  have admitted : ({ p with rxBuffer := rest } : Wb610).takeVerdict f
      = ({ p with rxBuffer := rest } : Wb610).verdictAdmitFlagged f l := by
    rw [Wb610.takeVerdict_of_admit _ hp (htag ▸ Wb610.matchQuery_of_slot _ hq hl), if_pos hcause]
  exact h.exec_verdict_of_admitted ht (p.queryCancelled (some q)) l _ rfl
    (admitted.trans (Wb610.verdictAdmitFlagged_of_follows _ f hx hq hc))

/-! ## The verified insert at the table (R27, R28), case by case -/

section
variable {t : Table} {l : LaneNo} {purpose : Purpose} {clock : Option Nat} {e : Entry}

theorem Table.verifiedInsert_of_suspect (hs : (t.bucket (bucketOf e.key)).suspect = true) :
    t.verifiedInsert l purpose e = (t, .tableFull) := by
  simp [Table.verifiedInsert, hs]

theorem Table.verifiedInsert_of_present {old : Entry} (hs : (t.bucket (bucketOf e.key)).suspect = false)
    (hf : t.find e.key = some old) : t.verifiedInsert l purpose e = (t, .inUse) := by
  simp [Table.verifiedInsert, hs, hf]

theorem Table.verifiedInsert_of_full (hs : (t.bucket (bucketOf e.key)).suspect = false) (hf : t.find e.key = none)
    (hfull : 32 ≤ (t.bucket (bucketOf e.key)).entries.length) : t.verifiedInsert l purpose e = (t, .tableFull) := by
  simp [Table.verifiedInsert, hs, hf, Nat.not_lt.mpr hfull]

theorem Table.verifiedInsert_of_room (hs : (t.bucket (bucketOf e.key)).suspect = false) (hf : t.find e.key = none)
    (hroom : (t.bucket (bucketOf e.key)).entries.length < 32) :
    t.verifiedInsert l purpose e = (t.append (e.takeHold l purpose), .inserted) := by
  simp [Table.verifiedInsert, hs, hf, hroom]

/-- R23: the hold keeps the prior state of the entry it is taken on. -/
theorem Entry.takeHold_of_prior {prior : Prior} (h : e.state.prior = some prior) :
    e.takeHold l purpose
      = { e with
          state := .held { lane := l, purpose, prior, revokePending := false, enteredElsewhere := false } } := by
  simp only [Entry.takeHold, h]

/-- R27: the prior state a verified insert keeps, where the record's state fits the purpose of the query. -/
def Entry.insertPrior (clock : Option Nat) (purpose : Purpose) (e : Entry) : Option Prior :=
  match purpose, e.state with
  | .entry, .outside => some .outside
  | .entry, .outOnPassout x => if ∀ now ∈ clock, now < x then some (.outOnPassout x) else none
  | .passout, .inside => if 1 ≤ e.passouts.val then some .inside else none
  | _, _ => none

theorem Entry.fitsPurpose_eq_isSome_insertPrior :
    e.fitsPurpose clock purpose = (e.insertPrior clock purpose).isSome := by
  obtain ⟨_, _, _, _, _, _, state, _⟩ := e
  cases purpose <;> cases state
  case entry.outOnPassout =>
    cases clock <;> simp [Entry.insertPrior, Entry.fitsPurpose, Entry.expired, apply_ite Option.isSome, ← decide_not]
  all_goals simp [Entry.insertPrior, Entry.fitsPurpose, apply_ite Option.isSome]

theorem Entry.prior_of_insertPrior {o : Prior} (h : e.insertPrior clock purpose = some o) :
    e.state.prior = some o := by
  unfold Entry.insertPrior at h
  split at h
  · next hs => rw [hs]; exact h
  · next hs => rw [hs]; exact (Option.ite_none_right_eq_some.mp h).2
  · next hs => rw [hs]; exact (Option.ite_none_right_eq_some.mp h).2
  · cases h

end

/-! ## The record of an ADMIT (R129) -/

section
variable {clock : Option Nat} {q : Query} {tag : Byte} {record : List Byte} {e : Entry}

theorem verdictEntryOf_bare : verdictEntryOf clock q [tag, 1, 0] = none := rfl

theorem verdictEntryOf_of_unfit
    (h : ∀ e, entryOfRecord record = some e → e.key ≠ q.key ∨ e.insertPrior clock q.purpose = none) :
    verdictEntryOf clock q (tag :: 1 :: 1 :: record) = none := by
  have present : byteAt (tag :: 1 :: 1 :: record) 2 = 1 := byteAt_head 1 record
  simp only [verdictEntryOf, if_pos present, List.drop_succ_cons, List.drop_zero]
  cases he : entryOfRecord record with
  | none => rfl
  | some e =>
    have unfit : ¬ (e.key = q.key ∧ e.fitsPurpose clock q.purpose = true) := by
      rw [Entry.fitsPurpose_eq_isSome_insertPrior]
      rintro ⟨key, fits⟩
      rcases h e he with other | unheld
      · exact other key
      · simp [unheld] at fits
    exact if_neg unfit

theorem verdictEntryOf_of_fit (he : entryOfRecord record = some e) (hk : e.key = q.key)
    {o : Prior} (ho : e.insertPrior clock q.purpose = some o) :
    verdictEntryOf clock q (tag :: 1 :: 1 :: record) = some e := by
  have present : byteAt (tag :: 1 :: 1 :: record) 2 = 1 := byteAt_head 1 record
  have fits : e.fitsPurpose clock q.purpose = true := by
    rw [Entry.fitsPurpose_eq_isSome_insertPrior, ho, Option.isSome_some]
  simp only [verdictEntryOf, if_pos present, List.drop_succ_cons, List.drop_zero, he]
  exact if_pos ⟨hk, fits⟩

end

/-! ## A matched ADMIT of an UNKNOWN or SUSPECT query (R129) -/

section
variable (p : Wb610) {f : Frame} {l : LaneNo} {q : Query} {c : Presentation} {e : Entry}

theorem Wb610.verdictAdmitUnheld_of_no_entry (he : verdictEntryOf p.clock q f.payload = none) :
    p.verdictAdmitUnheld f l q = p.respond f .badValue [] := by
  simp only [Wb610.verdictAdmitUnheld, he]

/-- R129: the reason for which a verified insert that fails refuses the query. -/
def InsertOutcome.refusal : InsertOutcome → Option Reason
  | .inserted => none
  | .inUse => some .inUse
  | .tableFull => some .tableFull

theorem Wb610.verdictAdmitUnheld_of_not_inserted {outcome : InsertOutcome} {r : Reason}
    (hx : (p.lane l).OutputsFollow) (hq : (p.lane l).slot = some q) (hc : (p.lane l).current = some c)
    (he : verdictEntryOf p.clock q f.payload = some e)
    (hi : p.table.verifiedInsert l q.purpose e = (p.table, outcome)) (hr : outcome.refusal = some r) :
    p.verdictAdmitUnheld f l q
      = (((p.queryCancelled (some q)).setLane l
          ({ p.lane l with slot := none }.afterRefusal p.settings c.key)).report .refused (some l) r.code 0
          (.credential c.key)).respondSettled f l r.code := by
  rw [← p.dropQuery_refuse hx hq hc]
  simp only [Wb610.verdictAdmitUnheld, he, hi]
  cases outcome <;> cases hr <;> rfl

theorem Wb610.verdictAdmitUnheld_of_inserted {t : Table} (hx : (p.lane l).OutputsFollow)
    (hq : (p.lane l).slot = some q) (hc : (p.lane l).current = some c)
    (he : verdictEntryOf p.clock q f.payload = some e)
    (hi : p.table.verifiedInsert l q.purpose e = (t, .inserted)) :
    p.verdictAdmitUnheld f l q
      = (({ p with table := t }.queryCancelled (some q)).setLane l
          ({ p.lane l with slot := none, hold := some e.key }.afterAdmission p.settings c.key true
            false)).respondSettled f l 0 := by
  have quiet : ({ p.lane l with slot := none } : Lane).OutputsFollow := hx
  have holding : ({ p.lane l with slot := none, hold := some e.key } : Lane).OutputsFollow := hx
  have dropped : ({ p with table := t } : Wb610).dropQuery l
      = ({ p with table := t }.queryCancelled (some q)).setLane l { p.lane l with slot := none } :=
    Wb610.dropQuery_of_slot _ l hq
  simp only [Wb610.verdictAdmitUnheld, he, hi]
  rw [dropped, Wb610.modLane_setLane_of_follows _ l quiet, Wb610.admitHolder_setLane _ l holding hc]
  rfl

end

/-- Settles O29: whether the verdict brings an insertable record (`verdictEntryOf_…`), then the insert by its case at
the table (`Table.verifiedInsert_of_…`). -/
theorem verdictAdmitInsertsEntry : Obligations.VerdictAdmitInsertsEntry := by
  intro s f rest l q c tag record h ht hlen p x hx _ hq htag hl hc hh hcause waiting prior refused
  have taken : IsVerdict tag 1 record f.payload →
      { p with rxBuffer := rest }.takeVerdict f = { p with rxBuffer := rest }.verdictAdmitUnheld f l q := by
    intro hp
    rw [Wb610.takeVerdict_of_admit _ hp (htag ▸ Wb610.matchQuery_of_slot _ hq hl), if_neg hcause]
  have badValue : IsVerdict tag 1 record f.payload → verdictEntryOf p.clock q f.payload = none →
      exec .verdict s = .next (s.answered rest p (f.reply 2 [])) := fun hp unfit =>
    h.exec_verdict ht p rfl ((taken hp).trans (Wb610.verdictAdmitUnheld_of_no_entry _ unfit))
  refine ⟨fun hp => badValue (.inl hp) (hp ▸ verdictEntryOf_bare), fun hp => ⟨fun unfit => ?_, ?_⟩⟩
  · exact badValue (.inr ⟨hp, hlen⟩) (hp ▸ verdictEntryOf_of_unfit unfit)
  intro e o he hk ho v
  have step := taken (.inr ⟨hp, hlen⟩)
  have entry : verdictEntryOf p.clock q f.payload = some e := hp ▸ verdictEntryOf_of_fit he hk ho
  have notInserted : ∀ {outcome : InsertOutcome} {r : Reason},
      p.table.verifiedInsert l q.purpose e = (p.table, outcome) → outcome.refusal = some r →
      exec .verdict s = refused r := fun hi hr =>
    h.exec_verdict_of_refused ht (p.queryCancelled (some q)) l _ _ _ rfl
      (step.trans (Wb610.verdictAdmitUnheld_of_not_inserted _ hx hq hc entry hi hr))
  refine ⟨fun hs => ?_, ?_, fun hs hf hfull => ?_, fun hs hf hroom => ?_⟩
  · exact notInserted (Table.verifiedInsert_of_suspect hs) rfl
  · rintro hs ⟨old, hf⟩
    exact notInserted (Table.verifiedInsert_of_present hs hf) rfl
  · exact notInserted (Table.verifiedInsert_of_full hs hf hfull) rfl
  · have inserted := Table.verifiedInsert_of_room (l := l) (purpose := q.purpose) hs hf hroom
    rw [Entry.takeHold_of_prior (Entry.prior_of_insertPrior ho)] at inserted
    exact h.exec_verdict_of_admitted ht _ l _ rfl
      (step.trans (Wb610.verdictAdmitUnheld_of_inserted _ hx hq hc entry inserted))

end Sys2Proof.Machine
end

