-- ==== Sys2Proof/Proofs/JournalRead.lean ====
section
/-! JOURNAL READ (R150-R152). -/

namespace Sys2Proof.Machine

/-! ## The fields of the request (R194) -/

theorem fieldAt_four (b0 b1 b2 b3 : Byte) (rest : List Byte) :
    fieldAt (b0 :: b1 :: b2 :: b3 :: rest) 0 4
      = ((b0.toNat * 256 + b1.toNat) * 256 + b2.toNat) * 256 + b3.toNat := by
  simp only [fieldAt, List.drop_zero, List.take_succ_cons, List.take_zero, beNat, beNatFrom]
  omega

theorem byteAt_fifth (b0 b1 b2 b3 n : Byte) : byteAt [b0, b1, b2, b3, n] 4 = n.toNat := by
  simp only [byteAt_cons, byteAt_head]

/-! ## A request of the wrong length (R184) -/

/-- The outcome of `State.Takes.serveFixed_wrong`, as the statements write it. -/
theorem State.Takes.act_serveFixed_wrong {s : State} {f : Frame} {rest : List Frame} (h : s.Takes f rest)
    {ty : Byte} {n : Nat} {body : Wb610 → Frame → Wb610} (ht : f.type = ty) (hn : f.payload.length ≠ n) :
    s.act (fun p => p.serveFixed ty n body) = .next (s.answered rest s.part (f.reply 1 [])) := by
  rw [State.act_eq, h.serveFixed_wrong body ht hn]
  exact congrArg _ (s.respond_eq_answered f rest { s.part with rxBuffer := rest } rfl rfl .badRequest [])

/-! ## Where the start sequence is found (R152), by its distance -/

section
variable {p : Wb610} {start : Nat}

theorem Wb610.locate_of_no_records (h : p.journal = []) : p.locate start = (.ok, []) := by
  simp only [Wb610.locate, h, List.length_nil, if_pos]

theorem Wb610.locate_of_held (h1 : 1 ≤ sequenceDistance p.nextSequence start)
    (hd : sequenceDistance p.nextSequence start ≤ p.journal.length) :
    p.locate start
      = (.ok, p.journal.drop (p.journal.length - sequenceDistance p.nextSequence start)) := by
  have records : p.journal.length ≠ 0 := by omega
  simp only [Wb610.locate, if_neg records, if_pos (And.intro h1 hd)]

/-- A journal holds no more than 16,384 records, so a start half the ring away or more is not among them. -/
theorem Wb610.locate_of_not_yet (h : p.journal ≠ [])
    (hd : sequenceDistance p.nextSequence start = 0 ∨ 2147483648 ≤ sequenceDistance p.nextSequence start)
    (hlen : p.journal.length ≤ 16384) : p.locate start = (.ok, []) := by
  have records : p.journal.length ≠ 0 := mt List.eq_nil_of_length_eq_zero h
  have notHeld : ¬ (1 ≤ sequenceDistance p.nextSequence start
      ∧ sequenceDistance p.nextSequence start ≤ p.journal.length) := by omega
  simp only [Wb610.locate, if_neg records, if_neg notHeld, if_pos hd]

theorem Wb610.locate_of_overwritten (h : p.journal ≠ [])
    (hd : p.journal.length < sequenceDistance p.nextSequence start)
    (hhalf : sequenceDistance p.nextSequence start ≤ 2147483647) :
    p.locate start = (.overwritten, p.journal) := by
  have records : p.journal.length ≠ 0 := mt List.eq_nil_of_length_eq_zero h
  have notHeld : ¬ (1 ≤ sequenceDistance p.nextSequence start
      ∧ sequenceDistance p.nextSequence start ≤ p.journal.length) := by omega
  have past : ¬ (sequenceDistance p.nextSequence start = 0
      ∨ 2147483648 ≤ sequenceDistance p.nextSequence start) := by omega
  simp only [Wb610.locate, if_neg records, if_neg notHeld, if_neg past]

end

/-! ## The request (R151) -/

theorem exec_journalRead (s : State) :
    exec .journalRead s = s.act fun p => p.serveFixed 0x40#8 5 Wb610.readJournal := rfl

section
variable (p : Wb610) {f : Frame}

theorem JournalRecord.elim_sequence (r : Option JournalRecord) :
    r.elim 0 (·.sequence) = match r with | none => 0 | some r => r.sequence := by
  cases r <;> rfl

/-- R151: an empty journal shows 0 for its oldest and its newest sequence number. -/
theorem Wb610.journalFields_eq (records : List JournalRecord) :
    p.journalFields records
      = [byte records.length]
        ++ beBytes 4 (match p.journal.head? with | none => 0 | some r => r.sequence)
        ++ beBytes 4 (match p.journal.getLast? with | none => 0 | some r => r.sequence)
        ++ beBytes 4 p.nextSequence ++ records.flatMap JournalRecord.record := by
  simp only [Wb610.journalFields, JournalRecord.elim_sequence]

theorem Wb610.readJournal_of_bad_value
    (h : fieldAt f.payload 0 4 = 0 ∨ byteAt f.payload 4 = 0 ∨ 32 < byteAt f.payload 4) :
    p.readJournal f = p.respond f .badValue [] := if_pos h

theorem Wb610.readJournal_of_located {code : ResultCode} {found : List JournalRecord}
    (h : ¬ (fieldAt f.payload 0 4 = 0 ∨ byteAt f.payload 4 = 0 ∨ 32 < byteAt f.payload 4))
    (hloc : p.locate (fieldAt f.payload 0 4) = (code, found)) :
    p.readJournal f = p.respond f code (p.journalFields (found.take (byteAt f.payload 4))) := by
  simp only [Wb610.readJournal, if_neg h, hloc]

end

/-- Settles O13: the length, then the range of the two fields, then the place of the start sequence by its distance
(`Wb610.locate_of_…`); the part answered on is the part as it stood. -/
theorem journalReadLocatesByDistance : Obligations.JournalReadLocatesByDistance := by
  refine ⟨fun s f rest htakes ht hlen => ?_, ?_⟩
  · rw [exec_journalRead]
    exact htakes.act_serveFixed_wrong ht hlen
  intro s f rest b0 b1 b2 b3 n htakes ht hp start next held distance answer
  have len : f.payload.length = 5 := by rw [hp]; rfl
  have startField : fieldAt f.payload 0 4 = start := by rw [hp, fieldAt_four]
  have countField : byteAt f.payload 4 = n.toNat := by rw [hp, byteAt_fifth]
  have zeroCount : n.toNat = 0 ↔ n = 0 := by bv_omega
  have refused_iff : (fieldAt f.payload 0 4 = 0 ∨ byteAt f.payload 4 = 0 ∨ 32 < byteAt f.payload 4)
      ↔ (start = 0 ∨ n = 0 ∨ 32 < n.toNat) := by
    rw [startField, countField, zeroCount]
  rw [exec_journalRead]
  refine ⟨fun hbad => ?_, fun hs hn h32 => ?_⟩
  · exact htakes.act_serveFixed ht len s.part rfl (Wb610.readJournal_of_bad_value _ (refused_iff.mpr hbad))
  have inRange : ¬ (start = 0 ∨ n = 0 ∨ 32 < n.toNat) := not_or.mpr ⟨hs, not_or.mpr ⟨hn, Nat.not_lt.mpr h32⟩⟩
  have located : ∀ {code : ResultCode} {found : List JournalRecord}, s.part.locate start = (code, found) →
      s.act (fun p => p.serveFixed 0x40#8 5 Wb610.readJournal) = answer code.code found := by
    intro code found hloc
    refine htakes.act_serveFixed ht len s.part rfl ?_
    rw [Wb610.readJournal_of_located _ (mt refused_iff.mp inRange) (startField ▸ hloc), countField]
    exact congrArg (Wb610.respond _ f code) (Wb610.journalFields_eq _ _)
  refine ⟨fun hempty => ?_, fun h1 hd => ?_, fun hne hd hlen => ?_, fun hne hd hhalf => ?_⟩
  · exact located (Wb610.locate_of_no_records hempty)
  · exact located (Wb610.locate_of_held h1 hd)
  · exact located (Wb610.locate_of_not_yet hne hd hlen)
  · exact located (Wb610.locate_of_overwritten hne hd hhalf)

end Sys2Proof.Machine
end

