-- ==== Sys2Proof/Proofs/Ping.lean ====
section
/-! PING (R189). -/

namespace Sys2Proof.Machine

theorem exec_ping (s : State) :
    exec .ping s = s.act fun p => p.serveFixed 0x01#8 0 fun q f => q.respond f .ok q.pingFields := rfl

/-- R194, Codes: link, as the byte of a response. -/
theorem byte_onlineCode (online : Bool) : byte (onlineCode online) = if online then 1 else 2 := by
  cases online <;> rfl

/-- R189: the response shows the link, the clock, the supply and the emergency as they stand. -/
theorem Wb610.pingFields_eq (p : Wb610) :
    p.pingFields
      = [if p.online then 1 else 2] ++ beBytes 4 (p.clock.getD 0xFFFFFFFF) ++ [byte p.supply.code]
        ++ beBytes 2 p.lastSample ++ [if p.emergency then 1 else 0] := by
  simp only [Wb610.pingFields, byte_onlineCode, optional32, flagByte]

/-- PING does not read the buffer its frame was taken from. -/
theorem Wb610.pingFields_of_rxBuffer (p : Wb610) (rest : List Frame) :
    ({ p with rxBuffer := rest } : Wb610).pingFields = p.pingFields := rfl

/-- Settles O10: the request by its length, answered OK on the part as it stands. -/
theorem pingAnswersTheGate : Obligations.PingAnswersTheGate := by
  intro s f rest htakes ht hp
  have len : f.payload.length = 0 := by rw [hp, List.length_nil]
  rw [exec_ping, ← Wb610.pingFields_eq]
  exact htakes.act_serveFixed (code := .ok) ht len s.part rfl
    (congrArg (Wb610.respond _ f .ok) (s.part.pingFields_of_rxBuffer rest))

end Sys2Proof.Machine
end

