-- ==== Sys2Proof/Proofs/Steps.lean ====
section
/-! Steps: the command at the front of the queue, one tick on an empty queue, and what a command makes of the part. -/

namespace Sys2Proof.Machine

/-! ## A command's outcome -/

/-- The part as a command leaves it. -/
def Wb610.after (p : Wb610) (c : Instr) : Wb610 :=
  match exec c { pending := [], part := p } with
  | .next t => t.part
  | .fault _ => p
  | .refused _ => p

/-- Every command answers a next state, which differs in the part alone. -/
theorem exec_eq (c : Instr) (s : State) : exec c s = .next { s with part := s.part.after c } := by
  cases c <;> rfl

theorem step_of_command {s : State} {c : Instr} {rest : List Instr} (h : s.pending = c :: rest) :
    step s = exec c { s with pending := rest } := by
  simp only [step, h]

theorem step_of_idle {s : State} (h : s.pending = []) : step s = .next { s with part := s.part.tick } := by
  simp only [step, h]

/-- All that a step can make of the part: one tick, or one command. -/
theorem step_cases {s t : State} (h : step s = .next t) :
    t.part = s.part.tick ∨ ∃ c, t.part = s.part.after c := by
  cases hp : s.pending with
  | nil =>
    rw [step_of_idle hp] at h
    cases h
    exact .inl rfl
  | cons c rest =>
    rw [step_of_command hp, exec_eq] at h
    cases h
    exact .inr ⟨c, rfl⟩

/-- What one tick and every command keep, every step keeps. -/
theorem step_keeps {I : Wb610 → Prop} (tick : ∀ p, I p → I p.tick) (after : ∀ p c, I p → I (p.after c)) (s t : State)
    (h : step s = .next t) (hs : I s.part) : I t.part := by
  rcases step_cases h with e | ⟨c, e⟩
  · exact e ▸ tick s.part hs
  · exact e ▸ after s.part c hs

/-- Settles O1. -/
theorem stepTakesFrontCommand : Obligations.StepTakesFrontCommand := fun _ _ _ h => step_of_command h

/-- Settles O3, by the outcome of every command (`exec_eq`). -/
theorem everyCommandAnswersNext : Obligations.EveryCommandAnswersNext := fun c s => ⟨s.part.after c, exec_eq c s⟩

/-! ## One tick (log 1) -/

theorem Wb610.lane_tick (p : Wb610) (l : LaneNo) : p.tick.lane l = (p.lane l).tick := by
  simp [Wb610.lane, Wb610.tick, Vector.get_eq_getElem]

/-- Settles O2: the timers of the gate field by field, those of a lane by `Wb610.lane_tick`. -/
theorem idleStepCountsTimersDown : Obligations.IdleStepCountsTimersDown := by
  intro s hs
  refine ⟨s.part.tick, step_of_idle hs, rfl, rfl, rfl, rfl, rfl, rfl, ?_, rfl, fun l => ?_⟩
  · cases hr : s.part.receiver <;> simp [Wb610.tick, hr, Receiver.tick]
  · have state : (s.part.lane l).state.tick = match (s.part.lane l).state with
        | .released t => .released (t - 1)
        | .passing t => .passing (t - 1)
        | .refusing t => .refusing (t - 1)
        | other => other := by
      cases (s.part.lane l).state <;> rfl
    have repoll : (s.part.lane l).reader.repoll.tick = match (s.part.lane l).reader.repoll with
        | .running t => .running (t - 1)
        | other => other := by
      cases (s.part.lane l).reader.repoll <;> rfl
    rw [Wb610.lane_tick, Lane.tick, state, repoll]
    rfl

end Sys2Proof.Machine
end

