-- ==== Sys2Proof/Proofs/AdmissionCycle.lean ====
section
/-! SUPPORT. What every act of the admission cycle keeps: the acts of Chapters 2, 3 and 6 write lanes, entries, waiting
VERIFY messages, reports and the link, and leave the rest of the part as it stands. -/

namespace Sys2Proof.Machine

/-! ## One lane -/

/-- R79: the six counters in their range. -/
def Counters.Bounded (c : Counters) : Prop :=
  c.admitted ≤ 4294967295 ∧ c.passouts ≤ 4294967295 ∧ c.refused ≤ 4294967295 ∧ c.freeExits ≤ 4294967295
    ∧ c.unpaid ≤ 4294967295 ∧ c.emergency ≤ 4294967295

/-- A lane before and after a change that the admission cycle makes, its outputs not yet set. -/
structure Lane.Alike (x y : Lane) : Prop where
  config : y.config = x.config
  rotor : { y.rotor with forced := x.rotor.forced } = x.rotor
  port : y.port = x.port
  reader : y.reader = x.reader
  counted : x.counters.Bounded → y.counters.Bounded
  shown : y.signals.shown = x.signals.shown
  flash : y.signals.flash.isSome = x.signals.flash.isSome

/-- A lane before and after acts of the admission cycle. -/
structure Lane.InCycle (x y : Lane) : Prop where
  config : y.config = x.config
  rotor : { y.rotor with forced := x.rotor.forced } = x.rotor
  port : y.port = x.port
  reader : y.reader = x.reader
  counted : x.counters.Bounded → y.counters.Bounded
  follows : x.OutputsFollow → y.OutputsFollow

section
variable {x y z : Lane}

theorem Lane.Alike.refl (x : Lane) : x.Alike x := ⟨rfl, rfl, rfl, rfl, id, rfl, rfl⟩

theorem Lane.Alike.trans (h : x.Alike y) (k : y.Alike z) : x.Alike z where
  config := k.config.trans h.config
  rotor := by rw [← h.rotor, ← k.rotor]
  port := k.port.trans h.port
  reader := k.reader.trans h.reader
  counted c := k.counted (h.counted c)
  shown := k.shown.trans h.shown
  flash := k.flash.trans h.flash

theorem Lane.InCycle.refl (x : Lane) : x.InCycle x := ⟨rfl, rfl, rfl, rfl, id, id⟩

theorem Lane.InCycle.trans (h : x.InCycle y) (k : y.InCycle z) : x.InCycle z where
  config := k.config.trans h.config
  rotor := by rw [← h.rotor, ← k.rotor]
  port := k.port.trans h.port
  reader := k.reader.trans h.reader
  counted c := k.counted (h.counted c)
  follows o := k.follows (h.follows o)

/-- The outputs set, the flash phase stands with the signal. -/
theorem Lane.Alike.sync (h : x.Alike y) : x.InCycle y.sync where
  config := h.config
  rotor := h.rotor
  port := h.port
  reader := h.reader
  counted := h.counted
  follows o := Lane.follows_sync _ (by rw [h.shown, h.flash]; exact o.2.2)

end

/-! ## The changes of a lane -/

section
variable (c : Settings) (x : Lane)

theorem Lane.alike_requestTone (t : Tone) : x.Alike (x.requestTone t) := by
  rw [x.requestTone_eq t]
  exact ⟨rfl, rfl, rfl, rfl, id, rfl, rfl⟩

theorem Lane.alike_rememberCurrent : x.Alike (x.rememberCurrent c) := by
  unfold Lane.rememberCurrent
  split <;> exact ⟨rfl, rfl, rfl, rfl, id, rfl, rfl⟩

theorem Lane.alike_countRefusal : x.Alike x.countRefusal :=
  ⟨rfl, rfl, rfl, rfl, fun ⟨ha, hp, hr, rest⟩ => ⟨ha, hp, addOne32_le _ hr, rest⟩, rfl, rfl⟩

theorem Lane.alike_admitHolder (v o : Bool) : x.Alike (x.admitHolder c v o) :=
  have entered : x.Alike ({ x with verified := v, offlineAdmit := o }.enterReleased c) :=
    ⟨rfl, rfl, rfl, rfl, id, rfl, rfl⟩
  (entered.trans (Lane.alike_rememberCurrent c _)).trans (Lane.alike_requestTone _ .accept)

theorem Lane.alike_refuse : x.Alike (x.refuse c) :=
  have entered : x.Alike (x.enterRefusing c) := ⟨rfl, rfl, rfl, rfl, id, rfl, rfl⟩
  ((entered.trans (Lane.alike_countRefusal _)).trans (Lane.alike_rememberCurrent c _)).trans
    (Lane.alike_requestTone _ .refuse)

theorem Lane.alike_dropHold : x.Alike x.dropHold := ⟨rfl, rfl, rfl, rfl, id, rfl, rfl⟩

theorem Lane.alike_enterIdle : x.Alike x.enterIdle := ⟨rfl, rfl, rfl, rfl, id, rfl, rfl⟩

theorem Lane.alike_close (cause : ClosedCause) : x.Alike (x.close cause) := ⟨rfl, rfl, rfl, rfl, id, rfl, rfl⟩

theorem Lane.alike_enterFree : x.Alike x.enterFree := ⟨rfl, rfl, rfl, rfl, id, rfl, rfl⟩

theorem Lane.alike_deferClose : x.Alike x.deferClose := by
  unfold Lane.deferClose
  split <;> exact ⟨rfl, rfl, rfl, rfl, id, rfl, rfl⟩

end

/-! ## The part -/

/-- The part before and after acts of the admission cycle. -/
structure Wb610.InCycle (p q : Wb610) : Prop where
  lanes : ∀ m, (p.lane m).InCycle (q.lane m)
  gate :
    { q with
      lanes := p.lanes, table := p.table, verifyQueue := p.verifyQueue, reports := p.reports
      dropCount := p.dropCount, online := p.online, silence := p.silence } = p
  reported : p.reports <+: q.reports
  room : p.reports.length ≤ 128 → q.reports.length ≤ 128
  dropped : p.dropCount ≤ 65535 → q.dropCount ≤ 65535
  sound : p.table.Sound → q.table.Sound
  codes : p.table.CodesAgree → q.table.CodesAgree

section
variable {p q r : Wb610}

theorem Wb610.InCycle.refl (p : Wb610) : p.InCycle p :=
  ⟨fun _ => .refl _, rfl, List.prefix_refl _, id, id, id, id⟩

theorem Wb610.InCycle.trans (h : p.InCycle q) (k : q.InCycle r) : p.InCycle r where
  lanes m := (h.lanes m).trans (k.lanes m)
  gate := by rw [← h.gate, ← k.gate]
  reported := h.reported.trans k.reported
  room e := k.room (h.room e)
  dropped e := k.dropped (h.dropped e)
  sound e := k.sound (h.sound e)
  codes e := k.codes (h.codes e)

end

/-! ## The writes an act is made of -/

section
variable (p : Wb610) (l : LaneNo)

theorem Wb610.inCycle_placeReport (r : Report) : p.InCycle (p.placeReport r) where
  lanes m := by rw [Wb610.lane_placeReport]; exact .refl _
  gate := by unfold Wb610.placeReport; split <;> rfl
  reported := p.placeReport_keeps r
  room := p.placeReport_length r
  dropped := p.placeReport_dropCount_le r
  sound := by rw [Wb610.placeReport_table]; exact id
  codes := by rw [Wb610.placeReport_table]; exact id

theorem Wb610.inCycle_report (k : ReportKind) (o : Option LaneNo) (a b : Nat) (c : ReportKey) :
    p.InCycle (p.report k o a b c) := p.inCycle_placeReport _

theorem Wb610.inCycle_setLane {y : Lane} (h : (p.lane l).Alike y) : p.InCycle (p.setLane l y) where
  lanes m := by
    by_cases e : m = l
    · subst e; rw [Wb610.lane_setLane_same]; exact h.sync
    · rw [p.lane_setLane_ne l m _ e]; exact .refl _
  gate := rfl
  reported := List.prefix_refl _
  room := id
  dropped := id
  sound := id
  codes := id

theorem Wb610.inCycle_modLane {f : Lane → Lane} (h : ∀ x : Lane, x.Alike (f x)) : p.InCycle (p.modLane l f) :=
  p.inCycle_setLane l (h _)

/-- R4: an entry changed where it stands, its key kept. -/
theorem Wb610.inCycle_modify (k : Key) {g : Entry → Entry} (hg : ∀ e, (g e).key = e.key) :
    p.InCycle { p with table := p.table.modify k g } where
  lanes _ := .refl _
  gate := rfl
  reported := List.prefix_refl _
  room := id
  dropped := id
  sound h := p.table.sound_modify h k g hg
  codes h := p.table.codesAgree_modify h k g

theorem Wb610.inCycle_messages (v : List VerifyMessage) : p.InCycle { p with verifyQueue := v } :=
  ⟨fun _ => .refl _, rfl, List.prefix_refl _, id, id, id, id⟩

theorem Wb610.inCycle_link (silence : Timer) (online : Bool) :
    p.InCycle { p with silence := silence, online := online } :=
  ⟨fun _ => .refl _, rfl, List.prefix_refl _, id, id, id, id⟩

theorem Wb610.inCycle_foldl {act : Wb610 → LaneNo → Wb610} (h : ∀ p l, Wb610.InCycle p (act p l)) (ls : List LaneNo) :
    p.InCycle (ls.foldl act p) := by
  induction ls generalizing p with
  | nil => exact .refl p
  | cons l ls ih => exact (h p l).trans (ih _)

/-- An act on every lane. -/
theorem Wb610.inCycle_eachLane {act : Wb610 → LaneNo → Wb610} (h : ∀ p l, Wb610.InCycle p (act p l)) :
    p.InCycle (p.eachLane act) := p.inCycle_foldl h laneNos

end

/-! ## What the hold cycle keeps of an entry -/

section
variable (e : Entry)

@[simp] theorem Entry.takeHold_key (l : LaneNo) (purpose : Purpose) : (e.takeHold l purpose).key = e.key := by
  unfold Entry.takeHold; split <;> rfl

@[simp] theorem Entry.release_key (now : Nat) : (e.release now).key = e.key := by
  unfold Entry.release
  cases e.state with
  | held h =>
    simp only
    split
    · rfl
    · split <;> rfl
  | outside | inside | outOnPassout _ | spent | void => rfl

@[simp] theorem Entry.commit_key (now seconds : Nat) : (e.commit now seconds).key = e.key := by
  unfold Entry.commit
  cases e.state with
  | held h => simp only; split <;> rfl
  | outside | inside | outOnPassout _ | spent | void => rfl

@[simp] theorem Entry.spend_key : e.spend.key = e.key := rfl

end

/-! ## The acts -/

section
variable (p : Wb610) (l : LaneNo) (lost : Bool)

theorem Wb610.inCycle_refuse (r : Reason) : p.InCycle (p.refuse l r) :=
  (p.inCycle_modLane l (Lane.alike_refuse _)).trans (Wb610.inCycle_report _ ..)

theorem Wb610.inCycle_admitHolder (v o : Bool) : p.InCycle (p.admitHolder l v o) :=
  p.inCycle_modLane l fun x => Lane.alike_admitHolder _ x v o

theorem Wb610.inCycle_takeHold (k : Key) (purpose : Purpose) : p.InCycle (p.takeHold l k purpose) :=
  (p.inCycle_modify k fun e => e.takeHold_key l purpose).trans
    (Wb610.inCycle_modLane _ l fun _ => ⟨rfl, rfl, rfl, rfl, id, rfl, rfl⟩)

theorem Wb610.inCycle_dropQuery : p.InCycle (p.dropQuery l) := by
  unfold Wb610.dropQuery
  split
  · exact .refl p
  · exact (p.inCycle_messages _).trans (Wb610.inCycle_modLane _ l fun _ => ⟨rfl, rfl, rfl, rfl, id, rfl, rfl⟩)

theorem Wb610.inCycle_releaseHold : p.InCycle (p.releaseHold l) := by
  unfold Wb610.releaseHold
  split
  · exact .refl p
  · next k _ =>
    exact (p.inCycle_modify k fun e => e.release_key _).trans (Wb610.inCycle_modLane _ l Lane.alike_dropHold)

theorem Wb610.inCycle_settleWithoutHost : p.InCycle (p.settleWithoutHost l) := by
  have drop := p.inCycle_dropQuery l
  unfold Wb610.settleWithoutHost
  split
  · exact .refl p
  · simp only
    split
    · exact drop.trans (Wb610.inCycle_refuse _ l _)
    · exact drop.trans (Wb610.inCycle_refuse _ l _)
    · split
      · exact drop.trans (Wb610.inCycle_admitHolder _ l _ _)
      · exact (drop.trans (Wb610.inCycle_releaseHold _ l)).trans (Wb610.inCycle_refuse _ l _)

theorem Wb610.inCycle_silenceTimeout : p.InCycle p.silenceTimeout := by
  unfold Wb610.silenceTimeout
  split
  · exact .refl p
  · simp only
    split
    · exact (((p.inCycle_link none false).trans (Wb610.inCycle_report _ ..)).trans
        (Wb610.inCycle_eachLane _ Wb610.inCycle_settleWithoutHost)).trans (Wb610.inCycle_messages _ [])
    · exact p.inCycle_link none p.online

theorem Wb610.inCycle_atOpening : p.InCycle (p.atOpening lost) := by
  cases lost
  · exact .refl p
  · exact p.inCycle_silenceTimeout

theorem Wb610.inCycle_openQuery (k : Key) (purpose : Purpose) (cause : QueryCause) :
    p.InCycle (p.openQuery l k purpose cause) := by
  have opened : p.InCycle (p.modLane l fun x =>
      { x with
        state := .verifying
        queryCounter := nextCounter (p.lane l).queryCounter
        slot := some
          { tag := queryTag l (nextCounter (p.lane l).queryCounter), key := k, purpose, cause
            deadline := p.settings.deadlineTime } }) :=
    p.inCycle_modLane l fun _ => ⟨rfl, rfl, rfl, rfl, id, rfl, rfl⟩
  unfold Wb610.openQuery
  simp only
  split
  · exact opened.trans (Wb610.inCycle_messages _ _)
  · exact opened.trans (Wb610.inCycle_settleWithoutHost _ l)

theorem Wb610.inCycle_claim (q : Presentation) : p.InCycle (p.claim l q lost) := by
  unfold Wb610.claim
  cases judge p.view (p.lane l).config p.table q with
  | refuse r => exact p.inCycle_refuse l r
  | spendAndRefuse => exact (p.inCycle_modify q.key Entry.spend_key).trans (Wb610.inCycle_refuse _ l _)
  | verifyUnheld cause purpose => exact (p.inCycle_atOpening lost).trans (Wb610.inCycle_openQuery _ l _ _ _)
  | verifyFlagged =>
    exact ((p.inCycle_takeHold l _ _).trans (Wb610.inCycle_atOpening _ lost)).trans
      (Wb610.inCycle_openQuery _ l _ _ _)
  | admitHolder purpose offlineAdmit => exact (p.inCycle_takeHold l _ _).trans (Wb610.inCycle_admitHolder _ l _ _)

theorem Wb610.inCycle_returnToIdle : p.InCycle (p.returnToIdle l lost) := by
  have idle := p.inCycle_modLane l Lane.alike_enterIdle
  unfold Wb610.returnToIdle
  split
  · refine .trans ?_ (Wb610.inCycle_claim _ l lost _)
    exact p.inCycle_modLane l fun _ => ⟨rfl, rfl, rfl, rfl, id, rfl, rfl⟩
  · exact idle
  · exact idle

theorem Wb610.inCycle_leavePassing : p.InCycle (p.leavePassing l lost) := by
  unfold Wb610.leavePassing
  split
  · exact p.inCycle_modLane l fun x => x.alike_close _
  · exact p.inCycle_returnToIdle l lost

theorem Wb610.inCycle_closeLane (cause : ClosedCause) : p.InCycle (p.closeLane l cause) :=
  ((p.inCycle_dropQuery l).trans (Wb610.inCycle_releaseHold _ l)).trans
    (Wb610.inCycle_modLane _ l fun x => x.alike_close cause)

theorem Wb610.inCycle_refuseNotReady (k : Key) : p.InCycle (p.refuseNotReady l k) :=
  have counted (x : Lane) : x.Alike (Lane.remember p.settings k x.countRefusal) :=
    x.alike_countRefusal.trans ⟨rfl, rfl, rfl, rfl, id, rfl, rfl⟩
  (p.inCycle_modLane l counted).trans (Wb610.inCycle_report _ ..)

theorem Wb610.inCycle_arrive (q : Presentation) : p.InCycle (p.arrive l q lost).1 := by
  cases hs : (p.lane l).state with
  | closed c =>
    rw [Wb610.arrive_of_not_serving (.inl ⟨c, hs⟩)]
    exact p.inCycle_modLane l fun x => x.alike_requestTone .error
  | test c =>
    rw [Wb610.arrive_of_not_serving (.inr ⟨c, hs⟩)]
    exact p.inCycle_modLane l fun x => x.alike_requestTone .error
  | free r => rw [Wb610.arrive_of_free hs]; exact .refl p
  | idle =>
    by_cases hr : (p.lane l).isRepeat q.key = true
    · rw [Wb610.arrive_of_repeat (by simp [hs, LaneState.isOpen]) hr]; exact .refl p
    · rw [Wb610.arrive_of_idle hs hr]
      refine .trans ?_ (Wb610.inCycle_claim _ l lost q)
      exact p.inCycle_modLane l fun _ => ⟨rfl, rfl, rfl, rfl, id, rfl, rfl⟩
  | verifying | released _ | refusing _ =>
    by_cases hr : (p.lane l).isRepeat q.key = true
    · rw [Wb610.arrive_of_repeat (by simp [hs, LaneState.isOpen]) hr]; exact .refl p
    · rw [Wb610.arrive_of_busy (by simp [hs]) hr]
      exact p.inCycle_modLane l fun _ => ⟨rfl, rfl, rfl, rfl, id, rfl, rfl⟩
  | passing t =>
    by_cases hr : (p.lane l).isRepeat q.key = true
    · rw [Wb610.arrive_of_repeat (by simp [hs, LaneState.isOpen]) hr]; exact .refl p
    · by_cases hc : (p.lane l).closePending = none
      · rw [Wb610.arrive_of_busy (by simp [hs, hc]) hr]
        exact p.inCycle_modLane l fun _ => ⟨rfl, rfl, rfl, rfl, id, rfl, rfl⟩
      · rw [Wb610.arrive_of_closing hs hc hr]
        exact p.inCycle_refuseNotReady l q.key

theorem Wb610.inCycle_faultClosure : p.InCycle (p.faultClosure l) := by
  have closed := (p.inCycle_closeLane l .fault).trans (Wb610.inCycle_report _ .laneFault (some l) 0 8 .none)
  unfold Wb610.faultClosure
  split
  case h_6 =>
    refine .trans ?_ (Wb610.inCycle_report _ ..)
    exact p.inCycle_modLane l fun _ => ⟨rfl, rfl, rfl, rfl, id, rfl, rfl⟩
  case h_7 | h_8 | h_9 => exact .refl p
  all_goals exact closed

theorem Wb610.inCycle_freeLane : p.InCycle (p.freeLane l) :=
  ((p.inCycle_dropQuery l).trans (Wb610.inCycle_releaseHold _ l)).trans
    (Wb610.inCycle_modLane _ l Lane.alike_enterFree)

theorem Wb610.inCycle_admitWindowExpiry : p.InCycle (p.admitWindowExpiry l lost) := by
  unfold Wb610.admitWindowExpiry
  split
  · exact ((p.inCycle_releaseHold l).trans (Wb610.inCycle_report _ ..)).trans (Wb610.inCycle_returnToIdle _ l lost)
  all_goals exact .refl p

theorem Wb610.inCycle_passageLimitExpiry : p.InCycle (p.passageLimitExpiry l lost) := by
  unfold Wb610.passageLimitExpiry
  split
  · exact ((p.inCycle_releaseHold l).trans (Wb610.inCycle_report _ ..)).trans (Wb610.inCycle_leavePassing _ l lost)
  all_goals exact .refl p

theorem Wb610.inCycle_refusalDisplayExpiry : p.InCycle (p.refusalDisplayExpiry l lost) := by
  unfold Wb610.refusalDisplayExpiry
  split
  · exact p.inCycle_returnToIdle l lost
  all_goals exact .refl p

end

end Sys2Proof.Machine
end

