-- ==== Sys2Proof/Proofs/TableWrites.lean ====
section
/-! The credential table written and read back, and the operations on it keep it sound (R1, R2, R4, R9, R136). -/

namespace Sys2Proof.Machine

/-! ## A bucket written -/

section
variable {t : Table} {b : Nat} {v : Bucket}

/-- R9: the entry count follows a bucket written. -/
theorem Table.entryCount_setBucket (h : t.Sound) (b : Nat) (v : Bucket) :
    (t.setBucket b v).entryCount + (t.bucket b).entries.length = t.entryCount + v.entries.length := by
  obtain ⟨hwf, -, hcount, -⟩ := h
  have sums := sum_putBucket b v (fun w => w.entries.length) rfl hwf
  simp only [Table.setBucket, Table.bucket, hcount]
  omega

/-- R136: the SUSPECT total follows a bucket written. -/
theorem Table.suspectTotal_setBucket (h : t.Sound) (b : Nat) (v : Bucket) :
    (t.setBucket b v).suspectTotal + (t.bucket b).suspect.toNat = t.suspectTotal + v.suspect.toNat := by
  obtain ⟨hwf, -, -, hsuspect⟩ := h
  have sums := sum_putBucket b v (fun w => w.suspect.toNat) rfl hwf
  simp only [Table.setBucket, Table.bucket, hsuspect]
  omega

theorem Table.codesAgree_setBucket (h : t.CodesAgree) (hv : v.code = checkCode v.entries) :
    (t.setBucket b v).CodesAgree := by
  intro r hr
  rcases mem_putBucket hr with hr | rfl
  · exact h r hr
  · exact hv

/-- A bucket whose code agrees in the list agrees as it is read. -/
theorem Table.CodesAgree.bucket (h : t.CodesAgree) (b : Nat) : (t.bucket b).code = checkCode (t.bucket b).entries := by
  rcases bucketAt_mem_or_empty t.buckets b with e | e
  · unfold Table.bucket
    rw [e]
    rfl
  · exact h _ e

theorem Table.sound_empty : Table.empty.Sound := ⟨rfl, by simp [Table.empty], rfl, rfl⟩

theorem Table.codesAgree_empty : Table.empty.CodesAgree := by simp [Table.CodesAgree, Table.empty]

theorem Bucket.sound_empty (b : Nat) : Bucket.empty.Sound b :=
  ⟨Nat.zero_le _, by simp [Bucket.empty], List.nodup_nil⟩

end

/-! ## A key searched for (R2) -/

section
variable {t : Table} {k : Key} {e : Entry}

theorem Table.find_mem (h : t.find k = some e) : e ∈ (t.bucket (bucketOf k)).entries := List.mem_of_find?_eq_some h

theorem Table.find_eq_none : t.find k = none ↔ ∀ e ∈ (t.bucket (bucketOf k)).entries, e.key ≠ k := by
  simp [Table.find]

/-- A bucket left as it is finds what it found before. -/
theorem Table.find_of_bucket {u : Table} (h : (u.bucket (bucketOf k)).entries = (t.bucket (bucketOf k)).entries) :
    u.find k = t.find k := by
  rw [Table.find, h, Table.find]

/-- A key is found in a list whose entries were changed without their keys as the entry it named, changed. -/
theorem find?_key_map (es : List Entry) (k : Key) {f : Entry → Entry} (hf : ∀ e, (f e).key = e.key) :
    (es.map f).find? (fun e => decide (e.key = k)) = (es.find? fun e => decide (e.key = k)).map f := by
  rw [List.find?_map]
  have same : (fun e => decide (e.key = k)) ∘ f = fun e : Entry => decide (e.key = k) :=
    funext fun e => by simp [hf]
  rw [same]

end

/-! ## An entry changed where it stands (R4) -/

section
variable (t : Table) (k : Key) (g : Entry → Entry)

/-- What a change of the entry of `k` does to each entry of its bucket. -/
def Entry.changeOf (k : Key) (g : Entry → Entry) (e : Entry) : Entry := if e.key = k then g e else e

theorem Entry.changeOf_key {g : Entry → Entry} (hg : ∀ e, (g e).key = e.key) (e : Entry) :
    (e.changeOf k g).key = e.key := by
  unfold Entry.changeOf
  split
  · exact hg e
  · rfl

theorem Table.modify_eq :
    t.modify k g
      = if (t.bucket (bucketOf k)).entries.map (Entry.changeOf k g) = (t.bucket (bucketOf k)).entries then t
        else t.writeEntries (bucketOf k) ((t.bucket (bucketOf k)).entries.map (Entry.changeOf k g)) := rfl

/-- The entries of the bucket of `k` are changed, whether or not the write took place. -/
theorem Table.modify_entries_same (h : bucketsWf t.buckets = true) :
    ((t.modify k g).bucket (bucketOf k)).entries
      = (t.bucket (bucketOf k)).entries.map (Entry.changeOf k g) := by
  rw [Table.modify_eq]
  split
  · next e => exact e.symm
  · rw [Table.bucket_writeEntries_same _ _ _ h]

theorem Table.modify_bucket_ne {b : Nat} (h : b ≠ bucketOf k) : (t.modify k g).bucket b = t.bucket b := by
  rw [Table.modify_eq]
  split
  · rfl
  · exact t.bucket_writeEntries_ne _ _ _ h

theorem Table.modify_suspect (h : bucketsWf t.buckets = true) (b : Nat) :
    ((t.modify k g).bucket b).suspect = (t.bucket b).suspect := by
  by_cases e : b = bucketOf k
  · subst e
    rw [Table.modify_eq]
    split
    · rfl
    · rw [Table.bucket_writeEntries_same _ _ _ h]
  · rw [t.modify_bucket_ne k g e]

theorem Table.modify_length (h : bucketsWf t.buckets = true) (b : Nat) :
    ((t.modify k g).bucket b).entries.length = (t.bucket b).entries.length := by
  by_cases e : b = bucketOf k
  · subst e
    rw [t.modify_entries_same k g h, List.length_map]
  · rw [t.modify_bucket_ne k g e]

/-- Every key finds what it found before, changed where it is the key itself. -/
theorem Table.find_modify (h : bucketsWf t.buckets = true) (hg : ∀ e, (g e).key = e.key) (k' : Key) :
    (t.modify k g).find k' = (t.find k').map (Entry.changeOf k g) := by
  by_cases e : bucketOf k' = bucketOf k
  · rw [Table.find, e, t.modify_entries_same k g h, find?_key_map _ _ (Entry.changeOf_key k hg), Table.find, e]
  · rw [Table.find_of_bucket (t := t) (u := t.modify k g) (by rw [t.modify_bucket_ne k g e])]
    cases hf : t.find k' with
    | none => rfl
    | some x =>
      have other : x.key ≠ k := fun hk => e (by rw [← hk, Table.key_of_find hf])
      simp [Entry.changeOf, other]

theorem Table.find_modify_same (h : bucketsWf t.buckets = true) (hg : ∀ e, (g e).key = e.key) :
    (t.modify k g).find k = (t.find k).map g := by
  rw [t.find_modify k g h hg]
  cases hf : t.find k with
  | none => rfl
  | some x => simp [Entry.changeOf, Table.key_of_find hf]

theorem Table.find_modify_ne (h : bucketsWf t.buckets = true) (hg : ∀ e, (g e).key = e.key) {k' : Key} (hk : k' ≠ k) :
    (t.modify k g).find k' = t.find k' := by
  rw [t.find_modify k g h hg]
  cases hf : t.find k' with
  | none => rfl
  | some x => simp [Entry.changeOf, Table.key_of_find hf, hk]

theorem Table.modify_entryCount : (t.modify k g).entryCount = t.entryCount := by
  rw [Table.modify_eq]
  split
  · rfl
  · simp [Table.writeEntries, Table.setBucket]

theorem Table.modify_suspectTotal : (t.modify k g).suspectTotal = t.suspectTotal := by
  rw [Table.modify_eq]
  split
  · rfl
  · simp [Table.writeEntries, Table.setBucket]

end

/-- Settles O6: a bucket written by the list's lemmas and the sums over it, an entry changed by `Table.modify_…` and
`Table.find_modify_…`. -/
theorem tableWritesReadBack : Obligations.TableWritesReadBack := by
  constructor
  · intro t b v es h hb
    exact ⟨t.bucket_setBucket_same b v h.1, fun c hc => t.bucket_setBucket_ne b c v hc,
      Table.entryCount_setBucket h b v, Table.suspectTotal_setBucket h b v, bucketsWf_putBucket h.1 hb v,
      t.bucket_writeEntries_same b es h.1⟩
  · intro t k g h hg
    exact ⟨t.find_modify_same k g h.1 hg, fun k' hk => t.find_modify_ne k g h.1 hg hk,
      fun b => ⟨t.modify_suspect k g h.1 b, t.modify_length k g h.1 b⟩, t.modify_entryCount k g,
      t.modify_suspectTotal k g⟩

/-! ## The operations keep the table sound -/

section
variable {t : Table} {e : Entry}

theorem Table.sound_writeEntries (h : t.Sound) {b : Nat} (hb : b < 4096) {es : List Entry} (hlen : es.length ≤ 32)
    (hkeys : ∀ e ∈ es, bucketOf e.key = b) (hnodup : (es.map (·.key)).Nodup) : (t.writeEntries b es).Sound :=
  t.sound_setBucket _ _ h hb ⟨hlen, hkeys, hnodup⟩

/-- R13: a new entry at the end of a bucket with a place free. -/
theorem Table.sound_append (h : t.Sound) (hf : t.find e.key = none)
    (hroom : (t.bucket (bucketOf e.key)).entries.length < 32) : (t.append e).Sound := by
  obtain ⟨-, hkeys, hnodup⟩ := t.sound_bucket h (bucketOf e.key)
  refine Table.sound_writeEntries h (bucketOf_lt _) ?_ ?_ ?_
  · rw [List.length_append, List.length_singleton]
    omega
  · intro x hx
    rcases List.mem_append.mp hx with hx | hx
    · exact hkeys x hx
    · rw [List.mem_singleton.mp hx]
  · rw [List.map_append, List.nodup_append]
    refine ⟨hnodup, List.nodup_singleton _, ?_⟩
    rintro a ha b hb rfl
    obtain ⟨x, hx, rfl⟩ := List.mem_map.mp ha
    exact Table.find_eq_none.mp hf x hx (List.mem_singleton.mp hb)

/-- R13: an entry replaced in its place. -/
theorem Table.sound_replace (h : t.Sound) : (t.replace e).Sound := by
  have keys (x : Entry) : (if x.key = e.key then e else x).key = x.key := by
    split
    · next same => exact same.symm
    · rfl
  exact t.sound_setBucket _ _ h (bucketOf_lt _) (Bucket.sound_map (t.sound_bucket h _) _ keys _ _)

/-- R14: an entry removed. -/
theorem Table.sound_remove (h : t.Sound) (k : Key) : (t.remove k).Sound := by
  obtain ⟨hlen, hkeys, hnodup⟩ := t.sound_bucket h (bucketOf k)
  refine Table.sound_writeEntries h (bucketOf_lt _) ?_ ?_ ?_
  · exact (List.length_filter_le _ _).trans hlen
  · exact fun x hx => hkeys x (List.mem_of_mem_filter hx)
  · exact hnodup.sublist (List.Sublist.map _ List.filter_sublist)

end

end Sys2Proof.Machine
end

