-- ==== Sys2Proof/Proofs/Keeps.lean ====
section
/-! SUPPORT. What a change of the part has to keep for the invariants of every step: outputs, table, queues, handler,
journal, counts, sweep and poll, gathered in one relation, with the writes of the model that keep them all. -/

namespace Sys2Proof.Machine

/-! ## The relation -/

/-- From `p` to `q` every one of these invariants is kept; agreement of the check codes only where nothing disturbs
the table behind the part's back (R5). -/
structure Wb610.Keeps (undisturbed : Prop) (p q : Wb610) : Prop where
  outputs : p.OutputsFollow → q.OutputsFollow
  sound : p.table.Sound → q.table.Sound
  codes : undisturbed → p.table.CodesAgree → q.table.CodesAgree
  queues : p.QueuesBounded → q.QueuesBounded
  handler : p.HandlerWaits → q.HandlerWaits
  journal : p.JournalRuns → q.JournalRuns
  counts : p.InRange → q.InRange
  sweep : p.SweepPaced → q.SweepPaced
  poll : p.PollPointed → q.PollPointed

section
variable {u : Prop} {p q r : Wb610}

theorem Wb610.Keeps.refl (p : Wb610) : p.Keeps u p := ⟨id, id, fun _ => id, id, id, id, id, id, id⟩

theorem Wb610.Keeps.trans (h : p.Keeps u q) (k : q.Keeps u r) : p.Keeps u r where
  outputs e := k.outputs (h.outputs e)
  sound e := k.sound (h.sound e)
  codes d e := k.codes d (h.codes d e)
  queues e := k.queues (h.queues e)
  handler e := k.handler (h.handler e)
  journal e := k.journal (h.journal e)
  counts e := k.counts (h.counts e)
  sweep e := k.sweep (h.sweep e)
  poll e := k.poll (h.poll e)

end

/-! ## Lanes -/

/-- R158: a flash phase stands exactly with a flashing signal. -/
def Lane.Phased (x : Lane) : Prop := x.signals.flash.isSome = x.signals.shown.flashes

/-- A lane before and after a change that keeps its counts in range, its outputs not yet set. -/
structure Lane.Moves (x y : Lane) : Prop where
  cardSource : y.config.cardSource = x.config.cardSource
  range : x.InRange → y.InRange
  phased : x.Phased → y.Phased

section
variable {x y z : Lane}

theorem Lane.Moves.refl (x : Lane) : x.Moves x := ⟨rfl, id, id⟩

theorem Lane.Moves.trans (h : x.Moves y) (k : y.Moves z) : x.Moves z :=
  ⟨k.cardSource.trans h.cardSource, fun r => k.range (h.range r), fun f => k.phased (h.phased f)⟩

theorem Lane.moves_sync (x : Lane) : x.Moves x.sync := ⟨rfl, id, fun h => (x.follows_sync h).2.2⟩

/-- The counts of a lane read the rotor but for the forced episode, the port, the reader and the counters. -/
theorem Lane.inRange_of_eq (hr : { y.rotor with forced := x.rotor.forced } = x.rotor) (hp : y.port = x.port)
    (hd : y.reader = x.reader) (hc : x.counters.Bounded → y.counters.Bounded) (h : x.InRange) : y.InRange := by
  obtain ⟨rotor, port, reader, counters⟩ := h
  rw [← hr] at rotor
  rw [← hp] at port
  rw [← hd] at reader
  exact ⟨rotor, port, reader, hc counters⟩

theorem Lane.Alike.moves (h : x.Alike y) : x.Moves y :=
  ⟨congrArg _ h.config, Lane.inRange_of_eq h.rotor h.port h.reader h.counted, fun f => by
    rw [Lane.Phased, h.shown, h.flash]; exact f⟩

theorem Lane.InCycle.inRange (h : x.InCycle y) : x.InRange → y.InRange :=
  Lane.inRange_of_eq h.rotor h.port h.reader h.counted

end

/-! ## Acts of the admission cycle -/

section
variable {u : Prop} {p q : Wb610}

theorem Wb610.InCycle.request (h : p.InCycle q) : q.request = p.request := (congrArg Wb610.request h.gate :)
theorem Wb610.InCycle.responses (h : p.InCycle q) : q.responses = p.responses := (congrArg Wb610.responses h.gate :)
theorem Wb610.InCycle.rxBuffer (h : p.InCycle q) : q.rxBuffer = p.rxBuffer := (congrArg Wb610.rxBuffer h.gate :)
theorem Wb610.InCycle.handler (h : p.InCycle q) : q.handler = p.handler := (congrArg Wb610.handler h.gate :)
theorem Wb610.InCycle.sending (h : p.InCycle q) : q.sending = p.sending := (congrArg Wb610.sending h.gate :)
theorem Wb610.InCycle.settings (h : p.InCycle q) : q.settings = p.settings := (congrArg Wb610.settings h.gate :)
theorem Wb610.InCycle.poll (h : p.InCycle q) : q.poll = p.poll := (congrArg Wb610.poll h.gate :)
theorem Wb610.InCycle.pollPointer (h : p.InCycle q) : q.pollPointer = p.pollPointer :=
  (congrArg Wb610.pollPointer h.gate :)
theorem Wb610.InCycle.journal (h : p.InCycle q) : q.journal = p.journal := (congrArg Wb610.journal h.gate :)
theorem Wb610.InCycle.nextSequence (h : p.InCycle q) : q.nextSequence = p.nextSequence :=
  (congrArg Wb610.nextSequence h.gate :)
theorem Wb610.InCycle.visitTimer (h : p.InCycle q) : q.visitTimer = p.visitTimer := (congrArg Wb610.visitTimer h.gate :)
theorem Wb610.InCycle.fastPass (h : p.InCycle q) : q.fastPass = p.fastPass := (congrArg Wb610.fastPass h.gate :)
theorem Wb610.InCycle.fastStart (h : p.InCycle q) : q.fastStart = p.fastStart := (congrArg Wb610.fastStart h.gate :)
theorem Wb610.InCycle.fastCount (h : p.InCycle q) : q.fastCount = p.fastCount := (congrArg Wb610.fastCount h.gate :)
theorem Wb610.InCycle.sweepPointer (h : p.InCycle q) : q.sweepPointer = p.sweepPointer :=
  (congrArg Wb610.sweepPointer h.gate :)
theorem Wb610.InCycle.tally (h : p.InCycle q) : q.tally = p.tally := (congrArg Wb610.tally h.gate :)
theorem Wb610.InCycle.lastSample (h : p.InCycle q) : q.lastSample = p.lastSample := (congrArg Wb610.lastSample h.gate :)
theorem Wb610.InCycle.clock (h : p.InCycle q) : q.clock = p.clock := (congrArg Wb610.clock h.gate :)
theorem Wb610.InCycle.supply (h : p.InCycle q) : q.supply = p.supply := (congrArg Wb610.supply h.gate :)
theorem Wb610.InCycle.emergency (h : p.InCycle q) : q.emergency = p.emergency := (congrArg Wb610.emergency h.gate :)
theorem Wb610.InCycle.rawEmergency (h : p.InCycle q) : q.rawEmergency = p.rawEmergency :=
  (congrArg Wb610.rawEmergency h.gate :)
theorem Wb610.InCycle.debounce (h : p.InCycle q) : q.debounce = p.debounce := (congrArg Wb610.debounce h.gate :)

/-- A report at the head of the queue stays there. -/
theorem head?_of_prefix {as bs : List Report} (h : as <+: bs) {r : Report} (hr : r ∈ as.head?.toList) :
    r ∈ bs.head?.toList := by
  obtain ⟨cs, rfl⟩ := h
  cases as with
  | nil => simp at hr
  | cons a as => exact hr

theorem Wb610.InCycle.keeps (h : p.InCycle q) : p.Keeps u q where
  outputs e l := (h.lanes l).follows (e l)
  sound := h.sound
  codes _ := h.codes
  queues := by
    rintro ⟨rx, room, reports, journal⟩
    refine ⟨?_, ?_, h.room reports, ?_⟩
    · rw [h.rxBuffer]; exact rx
    · rw [h.responses, h.request]; exact room
    · rw [h.journal]; exact journal
  handler := by
    rintro ⟨start, restart⟩
    rw [Wb610.HandlerWaits, h.handler, h.responses, h.sending]
    refine ⟨fun waits => ?_, restart⟩
    obtain ⟨r, hr, kind⟩ := start waits
    exact ⟨r, head?_of_prefix h.reported hr, kind⟩
  journal := by
    rw [Wb610.JournalRuns, Wb610.JournalRuns, h.journal, h.nextSequence]; exact id
  counts := by
    rintro ⟨lanes, tally, dropped, sample, clock⟩
    refine ⟨fun l => (h.lanes l).inRange (lanes l), ?_, h.dropped dropped, ?_, ?_⟩
    · rw [h.tally]; exact tally
    · rw [h.lastSample]; exact sample
    · rw [h.clock]; exact clock
  sweep := by
    rw [Wb610.SweepPaced, Wb610.SweepPaced, h.visitTimer, h.fastPass, h.fastCount, h.sweepPointer, h.fastStart]
    exact id
  poll e m hm := by
    rw [h.poll] at hm
    rw [h.pollPointer, (h.lanes m.lane).config]
    exact e m hm

end

/-! ## The writes -/

section
variable {u : Prop} (p : Wb610) (l : LaneNo)

theorem Wb610.outputs_setLane {y : Lane} (h : (p.lane l).Phased → y.Phased) (e : p.OutputsFollow) :
    (p.setLane l y).OutputsFollow := by
  intro m
  by_cases hm : m = l
  · subst hm
    rw [Wb610.lane_setLane_same]
    exact Lane.follows_sync _ (h (e m).2.2)
  · rw [p.lane_setLane_ne l m _ hm]
    exact e m

theorem Wb610.inRange_setLane {y : Lane} (h : (p.lane l).InRange → y.InRange) (e : p.InRange) :
    (p.setLane l y).InRange := by
  obtain ⟨lanes, rest⟩ := e
  refine ⟨fun m => ?_, rest⟩
  by_cases hm : m = l
  · subst hm
    rw [Wb610.lane_setLane_same]
    exact h (lanes m)
  · rw [p.lane_setLane_ne l m _ hm]
    exact lanes m

theorem Wb610.keeps_setLane {y : Lane} (h : (p.lane l).Moves y) : p.Keeps u (p.setLane l y) where
  outputs := p.outputs_setLane l h.phased
  sound := id
  codes _ := id
  queues := id
  handler := id
  journal := id
  counts := p.inRange_setLane l h.range
  sweep := id
  poll e q hq := by
    obtain ⟨pointer, source⟩ := e q hq
    refine ⟨pointer, ?_⟩
    by_cases hm : q.lane = l
    · rw [hm, Wb610.lane_setLane_same, Lane.sync_config, h.cardSource, ← hm]
      exact source
    · rw [p.lane_setLane_ne l _ _ hm]
      exact source

theorem Wb610.keeps_modLane {f : Lane → Lane} (h : (p.lane l).Moves (f (p.lane l))) : p.Keeps u (p.modLane l f) :=
  p.keeps_setLane l h

theorem Wb610.keeps_report (k : ReportKind) (o : Option LaneNo) (a b : Nat) (c : ReportKey) :
    p.Keeps u (p.report k o a b c) := (p.inCycle_report k o a b c).keeps

theorem Wb610.keeps_table {t : Table} (sound : p.table.Sound → t.Sound)
    (codes : u → p.table.CodesAgree → t.CodesAgree) : p.Keeps u { p with table := t } :=
  ⟨id, sound, codes, id, id, id, id, id, id⟩

theorem Wb610.keeps_foldl {act : Wb610 → LaneNo → Wb610} (h : ∀ p l, Wb610.Keeps u p (act p l)) (ls : List LaneNo) :
    p.Keeps u (ls.foldl act p) := by
  induction ls generalizing p with
  | nil => exact .refl p
  | cons l ls ih => exact (h p l).trans (ih _)

/-- An act on every lane. -/
theorem Wb610.keeps_eachLane {act : Wb610 → LaneNo → Wb610} (h : ∀ p l, Wb610.Keeps u p (act p l)) :
    p.Keeps u (p.eachLane act) := p.keeps_foldl h laneNos

/-! ## Requests (R183) -/

/-- R183: no request is in progress and a place is free for a response. -/
def Wb610.CanAnswer (p : Wb610) : Prop := p.request = none ∧ p.responses.length < 4

theorem Wb610.InCycle.canAnswer {p q : Wb610} (h : p.InCycle q) (c : p.CanAnswer) : q.CanAnswer := by
  rw [Wb610.CanAnswer, h.request, h.responses]
  exact c

/-- R183: a place free is taken by a response. -/
theorem Wb610.keeps_answer (h : p.CanAnswer) (ty tag : Byte) (code : ResultCode) (fields : List Byte) :
    p.Keeps u (p.answer ty tag code fields) where
  outputs := id
  sound := id
  codes _ := id
  queues := by
    rintro ⟨rx, -, rest⟩
    obtain ⟨request, room⟩ := h
    refine ⟨rx, ?_, rest⟩
    rw [Wb610.answer_responses, Wb610.answer_request, request, List.length_append]
    exact room
  handler := by
    rintro ⟨start, restart⟩
    refine ⟨start, fun waits => (restart waits).imp_left fun waiting => ?_⟩
    rw [Wb610.answer_responses, List.any_append, waiting, Bool.true_or]
  journal := id
  counts := id
  sweep := id
  poll := id

theorem Wb610.keeps_respond (h : p.CanAnswer) (f : Frame) (code : ResultCode) (fields : List Byte) :
    p.Keeps u (p.respond f code fields) := p.keeps_answer h ..

/-- What is kept up to a part that can answer is kept up to its response. -/
theorem Wb610.Keeps.respond {p q : Wb610} (h : p.Keeps u q) (can : q.CanAnswer) (f : Frame) (code : ResultCode)
    (fields : List Byte) : p.Keeps u (q.respond f code fields) := h.trans (q.keeps_respond can f code fields)

/-- R183: a request is in progress, or one may begin: a place for its response is kept or free. -/
def Wb610.MayAnswer (p : Wb610) : Prop := p.CanAnswer ∨ ∃ req, p.request = some req

variable {p} in
theorem Wb610.MayAnswer.room (h : p.MayAnswer) (bound : p.responses.length + p.request.toList.length ≤ 4) :
    p.responses.length + 1 ≤ 4 := by
  rcases h with ⟨-, room⟩ | ⟨req, hr⟩
  · exact room
  · rw [hr] at bound
    exact bound

/-- R183: a request of several operations goes on. -/
theorem Wb610.keeps_proceed (h : p.MayAnswer) (req : Request) : p.Keeps u { p with request := some req } where
  outputs := id
  sound := id
  codes _ := id
  queues := fun ⟨rx, room, rest⟩ => ⟨rx, h.room room, rest⟩
  handler := id
  journal := id
  counts := id
  sweep := id
  poll := id

/-- R183: a request of several operations ends with its response, in the place kept for it. -/
theorem Wb610.keeps_conclude (h : p.MayAnswer) (ty tag : Byte) (code : ResultCode) (fields : List Byte) :
    p.Keeps u ({ p with request := none }.answer ty tag code fields) where
  outputs := id
  sound := id
  codes _ := id
  queues := by
    rintro ⟨rx, room, rest⟩
    refine ⟨rx, ?_, rest⟩
    rw [Wb610.answer_responses, List.length_append]
    exact h.room room
  handler := by
    rintro ⟨start, restart⟩
    refine ⟨start, fun waits => (restart waits).imp_left fun waiting => ?_⟩
    rw [Wb610.answer_responses, List.any_append, waiting, Bool.true_or]
  journal := id
  counts := id
  sweep := id
  poll := id

theorem Wb610.keeps_taken {f : Frame} {rest : List Frame} (h : p.rxBuffer = f :: rest) :
    p.Keeps u { p with rxBuffer := rest } where
  outputs := id
  sound := id
  codes _ := id
  queues := by
    rintro ⟨rx, others⟩
    rw [h] at rx
    exact ⟨(Nat.le_succ _).trans rx, others⟩
  handler := id
  journal := id
  counts := id
  sweep := id
  poll := id

/-- A request row keeps what its body keeps, on a part that can answer. -/
theorem Wb610.keeps_serve {serves : Frame → Bool} {body : Wb610 → Frame → Wb610}
    (h : ∀ (q : Wb610) (f : Frame), q.CanAnswer → q.handler = .ready → serves f = true → q.Keeps u (body q f)) :
    p.Keeps u (p.serve serves body) := by
  rcases p.serve_cases serves body with e | ⟨f, rest, taken, request, room, ready, hs, e⟩
  · rw [e]; exact .refl p
  · rw [e]; exact (p.keeps_taken taken).trans (h _ f ⟨request, room⟩ ready hs)

theorem Wb610.keeps_serveFixed {ty : Byte} {n : Nat} {body : Wb610 → Frame → Wb610}
    (h : ∀ (q : Wb610) (f : Frame), q.CanAnswer → q.handler = .ready → f.type = ty → q.Keeps u (body q f)) :
    p.Keeps u (p.serveFixed ty n body) := by
  refine p.keeps_serve fun q f can ready hs => ?_
  split
  · exact h q f can ready (of_decide_eq_true hs)
  · exact q.keeps_respond can f _ _

end

end Sys2Proof.Machine
end

