-- ==== Sys2Proof/Proofs/KeptByTheLine.lean ====
section
/-! SUPPORT. Power-on and the server line keep the invariants of every step (Chapter 11, R177). -/

namespace Sys2Proof.Machine

/-! ## Power-on (R177) -/

section
variable (a b : BitVec 10) (contactOpen : Bool)

theorem Wb610.lane_powerOn (l : LaneNo) :
    (Wb610.powerOn a b contactOpen).lane l = .powerOn (a.getLsbD l.val) (b.getLsbD l.val) := by
  fin_cases l <;> rfl

theorem Lane.powerOn_follows (a b : Bool) : (Lane.powerOn a b).OutputsFollow := ⟨rfl, rfl, rfl⟩

theorem Lane.powerOn_inRange (a b : Bool) : (Lane.powerOn a b).InRange := by
  simp [Lane.InRange, Lane.powerOn, Rotor.fresh, Port.fresh, Reader.fresh, Counters.zero]

theorem Wb610.powerOn_outputs : (Wb610.powerOn a b contactOpen).OutputsFollow := fun l => by
  rw [Wb610.lane_powerOn]
  exact Lane.powerOn_follows _ _

theorem Wb610.powerOn_inRange : (Wb610.powerOn a b contactOpen).InRange := by
  refine ⟨fun l => ?_, Nat.zero_le _, Nat.zero_le _, Nat.zero_le _, by simp [Wb610.powerOn]⟩
  rw [Wb610.lane_powerOn]
  exact Lane.powerOn_inRange _ _

theorem Wb610.powerOn_queues : (Wb610.powerOn a b contactOpen).QueuesBounded := by
  simp [Wb610.QueuesBounded, Wb610.powerOn]

theorem Wb610.powerOn_handler : (Wb610.powerOn a b contactOpen).HandlerWaits := by
  simp [Wb610.HandlerWaits, Wb610.powerOn, Report.start]

theorem Wb610.powerOn_journal : (Wb610.powerOn a b contactOpen).JournalRuns := by
  simp [Wb610.JournalRuns, Wb610.powerOn, journalRuns]

theorem Wb610.powerOn_sweep : (Wb610.powerOn a b contactOpen).SweepPaced := by
  simp [Wb610.SweepPaced, Wb610.powerOn]

theorem Wb610.powerOn_poll : (Wb610.powerOn a b contactOpen).PollPointed := by
  simp [Wb610.PollPointed, Wb610.powerOn]

theorem Wb610.keeps_powerOn {u : Prop} (p : Wb610) : p.Keeps u (.powerOn a b contactOpen) where
  outputs _ := Wb610.powerOn_outputs a b contactOpen
  sound _ := Table.sound_empty
  codes _ _ := Table.codesAgree_empty
  queues _ := Wb610.powerOn_queues a b contactOpen
  handler _ := Wb610.powerOn_handler a b contactOpen
  journal _ := Wb610.powerOn_journal a b contactOpen
  counts _ := Wb610.powerOn_inRange a b contactOpen
  sweep _ := Wb610.powerOn_sweep a b contactOpen
  poll _ := Wb610.powerOn_poll a b contactOpen

end

/-! ## Receiving (R180-R182) -/

section
variable {u : Prop} (p : Wb610)

theorem Wb610.keeps_receiver (r : Receiver) : p.Keeps u { p with receiver := r } :=
  ⟨id, id, fun _ => id, id, id, id, id, id, id⟩

theorem Wb610.keeps_discardFrame (cause : Nat) : p.Keeps u (p.discardFrame cause) :=
  (p.keeps_receiver .hunting).trans (Wb610.keeps_report _ ..)

theorem Wb610.inCycle_hostHeard : p.InCycle p.hostHeard := by
  unfold Wb610.hostHeard
  simp only
  split
  · exact p.inCycle_link _ _
  · exact (p.inCycle_link _ true).trans (Wb610.inCycle_report _ ..)

theorem Wb610.keeps_received (f : Frame) (h : p.rxBuffer.length < 2) :
    p.Keeps u { p with receiver := .hunting, rxBuffer := p.rxBuffer ++ [f] } where
  outputs := id
  sound := id
  codes _ := id
  queues := by
    rintro ⟨-, rest⟩
    refine ⟨?_, rest⟩
    rw [List.length_append]
    exact h
  handler := id
  journal := id
  counts := id
  sweep := id
  poll := id

theorem Wb610.keeps_validFrame (f : Frame) : p.Keeps u (p.validFrame f) := by
  have heard : p.Keeps u p.hostHeard := p.inCycle_hostHeard.keeps
  unfold Wb610.validFrame
  simp only
  split
  · next room => exact heard.trans (Wb610.keeps_received _ f room)
  · exact heard.trans (Wb610.keeps_discardFrame _ 5)

theorem Wb610.keeps_storeByte (got : List Byte) : p.Keeps u (p.storeByte got) := by
  unfold Wb610.storeByte
  simp only
  split
  · exact p.keeps_receiver _
  split
  · exact p.keeps_discardFrame 3
  split
  · exact p.keeps_receiver _
  split
  · exact p.keeps_validFrame _
  · exact p.keeps_discardFrame 4

theorem Wb610.keeps_receiveByte (b : Byte) (lineError : Bool) : p.Keeps u (p.receiveByte b lineError) := by
  unfold Wb610.receiveByte
  split
  · split
    · exact p.keeps_receiver _
    · exact .refl p
  · split
    · exact p.keeps_discardFrame 1
    · exact p.keeps_storeByte _

theorem Wb610.keeps_gapTimeout : p.Keeps u p.gapTimeout := by
  unfold Wb610.gapTimeout
  split
  · exact .refl p
  · exact p.keeps_discardFrame 2

/-! ## Sending (R186, R188, R193) -/

/-- R193: while the line is free, a handler that waits for the RESTART response has it waiting. -/
theorem Wb610.restart_waiting {p : Wb610} (h : p.HandlerWaits) (free : p.sendingRestartResponse ≠ true)
    (waits : p.handler = .awaitingRestartResponse) : p.responses.any Frame.isRestartResponse = true := by
  refine (h.2 waits).resolve_right fun sent => free ?_
  simp [Wb610.sendingRestartResponse, waits, sent]

theorem Wb610.keeps_sendResponse (free : p.sendingRestartResponse ≠ true) {f : Frame} {rest : List Frame}
    (hr : p.responses = f :: rest) : p.Keeps u { p with responses := rest, sending := some f } where
  outputs := id
  sound := id
  codes _ := id
  queues := by
    rintro ⟨rx, room, others⟩
    rw [hr, List.length_cons] at room
    refine ⟨rx, ?_, others⟩
    simp only
    omega
  handler h := by
    refine ⟨h.1, fun waits => ?_⟩
    have waiting := Wb610.restart_waiting h free waits
    rw [hr, List.any_cons, Bool.or_eq_true] at waiting
    exact waiting.symm
  journal := id
  counts := id
  sweep := id
  poll := id

/-- With no response waiting, and none of RESTART on the line, the handler does not wait for one. -/
theorem Wb610.keeps_sendOther (free : p.sendingRestartResponse ≠ true) (hr : p.responses = []) (v : List VerifyMessage)
    (f : Option Frame) : p.Keeps u { p with verifyQueue := v, sending := f } where
  outputs := id
  sound := id
  codes _ := id
  queues := id
  handler h := by
    refine ⟨h.1, fun waits => ?_⟩
    have waiting := Wb610.restart_waiting h free waits
    rw [hr] at waiting
    exact absurd waiting (by simp)
  journal := id
  counts := id
  sweep := id
  poll := id

/-- R183, R187: the oldest report taken, the handler free once START has gone. -/
theorem Wb610.keeps_oldestReport (free : p.sendingRestartResponse ≠ true) (hr : p.responses = []) {r : Report}
    {rest : List Report} (hq : p.reports = r :: rest) :
    p.Keeps u
      { p with
        reports := rest
        sending := some r.frame
        handler := if r.kind = .start ∧ p.handler = .awaitingStart then .ready else p.handler } where
  outputs := id
  sound := id
  codes _ := id
  queues := by
    rintro ⟨rx, room, reports, journal⟩
    rw [hq, List.length_cons] at reports
    exact ⟨rx, room, (Nat.le_succ _).trans reports, journal⟩
  handler h := by
    constructor
    · intro waits
      simp only at waits
      split at waits
      · cases waits
      · next other =>
        obtain ⟨r', hr', start⟩ := h.1 waits
        rw [hq] at hr'
        have same : r' = r := by simpa using hr'
        exact absurd ⟨same ▸ start, waits⟩ other
    · intro waits
      simp only at waits
      split at waits
      · cases waits
      · have waiting := Wb610.restart_waiting h free waits
        rw [hr] at waiting
        exact absurd waiting (by simp)
  journal := id
  counts := id
  sweep := id
  poll := id

theorem Wb610.keeps_dropCount_zero : p.Keeps u { p with dropCount := 0 } :=
  ⟨id, id, fun _ => id, id, id, id, fun ⟨lanes, tally, _, rest⟩ => ⟨lanes, tally, Nat.zero_le _, rest⟩, id, id⟩

theorem Wb610.keeps_takeReport (free : p.sendingRestartResponse ≠ true) (hr : p.responses = []) {r : Report}
    {rest : List Report} (hq : p.reports = r :: rest) : p.Keeps u (p.takeReport r rest) := by
  have oldest := p.keeps_oldestReport (u := u) free hr hq
  unfold Wb610.takeReport
  simp only
  split
  · exact oldest
  · exact (oldest.trans (Wb610.keeps_dropCount_zero _)).trans (Wb610.keeps_report _ ..)

theorem Wb610.keeps_arbiter : p.Keeps u p.arbiter := by
  unfold Wb610.arbiter
  split
  · exact .refl p
  next free =>
  split
  · next hr => exact p.keeps_sendResponse free hr
  next hr =>
  split
  · exact p.keeps_sendOther free hr _ _
  split
  · next hq => exact p.keeps_takeReport free hr hq
  · exact p.keeps_sendOther free hr _ _
  · exact p.keeps_sendOther free hr _ _

theorem Wb610.keeps_restartResponseSent : p.Keeps u p.restartResponseSent := by
  unfold Wb610.restartResponseSent
  split
  · refine ⟨id, id, fun _ => id, ?_, ?_, id, ?_, id, id⟩
    · rintro ⟨-, room, -, journal⟩
      exact ⟨Nat.zero_le _, room, by simp, journal⟩
    · intro _
      simp [Wb610.HandlerWaits, Report.start]
    · rintro ⟨lanes, tally, -, rest⟩
      exact ⟨lanes, tally, Nat.zero_le _, rest⟩
  · exact .refl p

end

end Sys2Proof.Machine
end

