-- ==== Sys2Proof/Proofs/KeptByTheBus.lean ====
section
/-! SUPPORT. The card reader bus and the barcode ports keep the invariants of every step (Chapter 5). -/

namespace Sys2Proof.Machine

variable {u : Prop} (p : Wb610) (l : LaneNo) (lost : Bool)

/-! ## The arbiter (R109) -/

/-- R109: a reader that is chosen is on the bus. -/
theorem Wb610.cardSource_of_nextReader {p : Wb610} {l : LaneNo} (h : p.nextReader = some l) :
    (p.lane l).config.cardSource = .bus := by
  unfold Wb610.nextReader at h
  simp only at h
  split at h
  · next due =>
    cases h
    have chosen := List.find?_some due
    simp only [Lane.readerDue, Bool.and_eq_true, decide_eq_true_eq] at chosen
    exact chosen.1.1
  · have chosen := List.find?_some h
    simp only [Lane.readerOnBus, Bool.and_eq_true, decide_eq_true_eq] at chosen
    exact chosen.1

/-- All that the arbiter can do: nothing, or a poll begun to the reader that the pointer then names. -/
theorem Wb610.chooseReader_cases :
    p.chooseReader = p
      ∨ ∃ l, (p.lane l).config.cardSource = .bus
        ∧ p.chooseReader = { p with pollPointer := l, poll := some { lane := l, window := none, leftBus := false } } := by
  unfold Wb610.chooseReader
  split
  · exact .inl rfl
  · split
    · exact .inl rfl
    · next l chosen => exact .inr ⟨l, Wb610.cardSource_of_nextReader chosen, rfl⟩

theorem Wb610.keeps_chooseReader : p.Keeps u p.chooseReader := by
  rcases p.chooseReader_cases with e | ⟨l, source, e⟩
  · rw [e]; exact .refl p
  · rw [e]
    refine ⟨id, id, fun _ => id, id, id, id, id, id, fun _ q hq => ?_⟩
    cases hq
    exact ⟨rfl, .inl source⟩

theorem Wb610.keeps_poll_none : p.Keeps u { p with poll := none } :=
  ⟨id, id, fun _ => id, id, id, id, id, id, fun _ q hq => by cases hq⟩

theorem Wb610.keeps_endPoll : p.Keeps u p.endPoll := p.keeps_poll_none.trans (Wb610.keeps_chooseReader _)

/-! ## Readers (R111, R115, R116) -/

/-- A change of the reader alone that keeps its miss count in range. -/
theorem Lane.moves_reader (x : Lane) (r : Reader) (h : x.reader.misses ≤ 3 → r.misses ≤ 3) :
    x.Moves { x with reader := r } :=
  ⟨rfl, fun ⟨rotor, port, misses, counters⟩ => ⟨rotor, port, h misses, counters⟩, id⟩

theorem Wb610.keeps_miss : p.Keeps u (p.miss l) := by
  unfold Wb610.miss
  simp only
  split
  · split
    · next few => exact p.keeps_modLane l (Lane.moves_reader _ _ fun _ => by simp only; omega)
    · refine .trans ?_ (Wb610.keeps_report _ ..)
      exact p.keeps_modLane l (Lane.moves_reader _ _ fun _ => Nat.le_refl 3)
  · exact p.keeps_modLane l (Lane.moves_reader _ _ id)

theorem Wb610.keeps_readerAnswers : p.Keeps u (p.readerAnswers l) := by
  have fresh : p.Keeps u (p.modLane l fun x => { x with reader := .fresh }) :=
    p.keeps_modLane l (Lane.moves_reader _ _ fun _ => Nat.zero_le 3)
  unfold Wb610.readerAnswers
  simp only
  split
  · exact fresh
  · exact fresh.trans (Wb610.keeps_report _ ..)

theorem Wb610.keeps_arrive (q : Presentation) : p.Keeps u (p.arrive l q lost).1 := (p.inCycle_arrive l lost q).keeps

theorem Wb610.keeps_goodAnswer (left : Bool) (c : BusContent) : p.Keeps u (p.goodAnswer l left c lost) := by
  have answers := p.keeps_readerAnswers (u := u) l
  unfold Wb610.goodAnswer
  cases c with
  | idle => exact answers
  | card k =>
    simp only
    split
    · exact answers
    · exact answers.trans (Wb610.keeps_arrive _ l lost _)
  | fault code => exact answers.trans (Wb610.keeps_report _ ..)

/-! ## Polls (R110, R111, R116) -/

theorem Wb610.keeps_busBytes (bytes : List Byte) : p.Keeps u (p.busBytes bytes lost) := by
  unfold Wb610.busBytes
  split
  · next l w left _ =>
    split
    · exact .refl p
    · exact (p.keeps_miss l).trans (Wb610.keeps_endPoll _)
    · refine .trans ?_ (Wb610.keeps_endPoll _)
      split
      · exact p.keeps_goodAnswer l lost left _
      · exact p.keeps_miss l
  · exact .refl p
  · exact .refl p

theorem Wb610.keeps_pollSent : p.Keeps u p.pollSent := by
  unfold Wb610.pollSent
  split
  · next l left hp =>
    refine ⟨id, id, fun _ => id, id, id, id, id, id, fun pointed q hq => ?_⟩
    cases hq
    exact pointed { lane := l, window := none, leftBus := left } hp
  · exact .refl p
  · exact .refl p

theorem Wb610.keeps_pollWindowExpiry : p.Keeps u p.pollWindowExpiry := by
  unfold Wb610.pollWindowExpiry
  split
  · next l w left _ => exact (p.keeps_miss l).trans (Wb610.keeps_endPoll _)
  · exact .refl p
  · exact .refl p

theorem Wb610.keeps_repollTimerExpiry : p.Keeps u (p.repollTimerExpiry l) := by
  unfold Wb610.repollTimerExpiry
  split
  · refine .trans ?_ (Wb610.keeps_chooseReader _)
    exact p.keeps_modLane l (Lane.moves_reader _ _ id)
  · exact .refl p
  · exact .refl p

/-! ## Barcode ports (R103-R107) -/

/-- R102: a port's counts in their ranges. -/
def Port.Bounded (b : Port) : Prop := b.counted ≤ 24 ∧ b.buffer.length ≤ b.counted ∧ b.badCount ≤ 65535

theorem Lane.moves_port (x : Lane) (b : Port) (h : x.port.Bounded → b.Bounded) : x.Moves { x with port := b } :=
  ⟨rfl, fun ⟨rotor, port, rest⟩ => ⟨rotor, h port, rest⟩, id⟩

theorem Port.bounded_take {b : Port} (c : Byte) (e : Bool) (h : b.Bounded) : (b.take c e).Bounded := by
  obtain ⟨counted, stored, bad⟩ := h
  unfold Port.take
  split
  · exact ⟨counted, stored, bad⟩
  split
  · next room =>
    split
    · exact ⟨room, stored.trans (Nat.le_succ _), bad⟩
    · refine ⟨room, ?_, bad⟩
      rw [List.length_append]
      exact Nat.succ_le_succ stored
  · exact ⟨counted, stored, bad⟩

theorem Port.bounded_newLine {b : Port} (h : b.Bounded) : b.newLine.Bounded :=
  ⟨Nat.zero_le _, Nat.le_refl _, h.2.2⟩

theorem Wb610.keeps_goodLine (line : List Byte) : p.Keeps u (p.goodLine l line lost) := by
  have arrives := p.keeps_arrive (u := u) l lost (barcodePresentation line)
  have sound (q : Wb610) : q.Keeps u (q.modLane l fun x => { x with port := { x.port with fault := false, badCount := 0 } }) :=
    q.keeps_modLane l (Lane.moves_port _ _ fun ⟨counted, stored, _⟩ => ⟨counted, stored, Nat.zero_le _⟩)
  unfold Wb610.goodLine
  simp only
  split
  · exact (arrives.trans (Wb610.keeps_report _ ..)).trans (sound _)
  · exact arrives.trans (sound _)

theorem Wb610.keeps_badLine : p.Keeps u (p.badLine l) := by
  have counted : p.Keeps u (p.modLane l fun x =>
      if x.state.isOpen then
        Lane.requestTone .error { x with port := { x.port with badCount := addOne16 (p.lane l).port.badCount } }
      else { x with port := { x.port with badCount := addOne16 (p.lane l).port.badCount } }) := by
    have port := Lane.moves_port (p.lane l) { (p.lane l).port with badCount := addOne16 (p.lane l).port.badCount }
      fun ⟨counted, stored, bad⟩ => ⟨counted, stored, addOne16_le _ bad⟩
    refine p.keeps_modLane l ?_
    split
    · exact port.trans (Lane.alike_requestTone _ .error).moves
    · exact port
  unfold Wb610.badLine
  simp only
  split
  · refine (counted.trans ?_).trans (Wb610.keeps_report _ ..)
    exact Wb610.keeps_modLane _ l (Lane.moves_port _ _ id)
  · exact counted

theorem Wb610.keeps_endLine : p.Keeps u (p.endLine l lost) := by
  have ended : p.Keeps u (p.modLane l fun x => { x with port := x.port.newLine }) :=
    p.keeps_modLane l (Lane.moves_port _ _ Port.bounded_newLine)
  unfold Wb610.endLine
  simp only
  split
  · split
    · exact ended.trans (Wb610.keeps_goodLine _ l lost _)
    · exact ended.trans (Wb610.keeps_badLine _ l)
  · exact ended

theorem Wb610.keeps_barcodeCharacter (c : Byte) (framingError : Bool) :
    p.Keeps u (p.barcodeCharacter l c framingError lost) := by
  unfold Wb610.barcodeCharacter
  split
  · exact p.keeps_endLine l lost
  · exact p.keeps_modLane l (Lane.moves_port _ _ (Port.bounded_take c framingError))

end Sys2Proof.Machine
end

