-- ==== Sys2Proof/Proofs/KeptByTheRotor.lean ====
section
/-! SUPPORT. The rotor decoder and the passage journal keep the invariants of every step (Chapters 4 and 8). -/

namespace Sys2Proof.Machine

/-! ## The passage journal (R147, R150) -/

/-- R150: the number after one of the ring is one of the ring. -/
theorem nextSequenceAfter_range {n : Nat} (h1 : 1 ≤ n) (h2 : n ≤ 4294967295) :
    1 ≤ nextSequenceAfter n ∧ nextSequenceAfter n ≤ 4294967295 := by
  unfold nextSequenceAfter Config.count32Max
  split <;> omega

/-- The oldest record leaves the numbers without a gap. -/
theorem journalRuns_drop_one {next : Nat} {j : List JournalRecord} (h : journalRuns next j = true) :
    journalRuns next (j.drop 1) = true := by
  match j, h with
  | [], _ => rfl
  | [_], _ => rfl
  | _ :: _ :: _, h =>
    simp only [journalRuns, Bool.and_eq_true] at h
    exact h.2

/-- A record with the next sequence number joins without a gap. -/
theorem journalRuns_append {r : JournalRecord} {j : List JournalRecord} (h : journalRuns r.sequence j = true) :
    journalRuns (nextSequenceAfter r.sequence) (j ++ [r]) = true := by
  match j, h with
  | [], _ => simp [journalRuns]
  | [a], h =>
    simp only [journalRuns, decide_eq_true_eq] at h
    simp [journalRuns, h]
  | a :: b :: rest, h =>
    simp only [journalRuns, Bool.and_eq_true] at h
    simp only [List.cons_append, journalRuns, Bool.and_eq_true]
    exact ⟨h.1, journalRuns_append (j := b :: rest) h.2⟩

section
variable {u : Prop} (p : Wb610) (l : LaneNo) (lost : Bool)

theorem Wb610.keeps_appendJournal (r : JournalRecord) (h : r.sequence = p.nextSequence) :
    p.Keeps u (p.appendJournal r) where
  outputs := id
  sound := id
  codes _ := id
  queues := by
    rintro ⟨rx, room, reports, journal⟩
    refine ⟨rx, room, reports, ?_⟩
    unfold Wb610.appendJournal Config.journalCapacity
    simp only [List.length_append, List.length_singleton]
    split <;> (try rw [List.length_drop]) <;> omega
  handler := id
  journal := by
    rintro ⟨runs, low, high⟩
    refine ⟨?_, nextSequenceAfter_range low high⟩
    rw [← h] at runs
    simp only [Wb610.appendJournal, ← h]
    split
    · exact journalRuns_append runs
    · exact journalRuns_append (journalRuns_drop_one runs)
  counts := id
  sweep := id
  poll := id

/-! ## Passage complete (R60) -/

theorem Counters.bounded_countPassage {c : Counters} (purpose : Purpose) (h : c.Bounded) :
    (c.countPassage purpose).Bounded := by
  obtain ⟨admitted, passouts, rest⟩ := h
  cases purpose with
  | entry => exact ⟨addOne32_le _ admitted, passouts, rest⟩
  | passout => exact ⟨admitted, addOne32_le _ passouts, rest⟩

theorem Wb610.keeps_commitHold : p.Keeps u (p.commitHold l) := by
  unfold Wb610.commitHold
  cases (p.lane l).hold with
  | none => exact .refl p
  | some k =>
  simp only
  cases p.table.find k with
  | none => exact .refl p
  | some e =>
  simp only
  cases e.state.hold with
  | none => exact .refl p
  | some h =>
  have counted (x : Lane) : x.Alike { x.dropHold with counters := x.counters.countPassage h.purpose } :=
    ⟨rfl, rfl, rfl, rfl, Counters.bounded_countPassage h.purpose, rfl, rfl⟩
  have committed := (p.inCycle_modify k fun e => e.commit_key p.now p.settings.passoutSeconds).keeps (u := u)
  have appended := committed.trans (Wb610.keeps_appendJournal _ (p.commitRecord l e h) rfl)
  exact appended.trans (Wb610.inCycle_modLane _ l counted).keeps

theorem Wb610.keeps_leaveCommitted : p.Keeps u ((p.commitHold l).leavePassing l lost) :=
  (p.keeps_commitHold l).trans (Wb610.inCycle_leavePassing _ l lost).keeps

/-! ## Steps forward (R85-R94) -/

/-- R85: short of 36 a step forward keeps offset and peak in range. -/
theorem Lane.moves_stepForward (x : Lane) (h : x.rotor.offset + 1 ≠ 36) : x.Moves x.stepForward := by
  refine ⟨rfl, fun ⟨⟨low, high, peak, faults⟩, rest⟩ => ⟨⟨?_, ?_, ?_, faults⟩, rest⟩, id⟩
  all_goals simp only [Lane.stepForward, Rotor.stepForward]; omega

/-- R88: a completion at 36 leaves a rest position; the step before it and a forced episode do not count. -/
theorem Lane.moves_completed {x y : Lane} (h : x.rotor.offset + 1 = 36) (y_config : y.config = x.config)
    (y_rotor : { y.rotor with forced := x.rotor.forced } = x.stepForward.rotor.complete) (y_port : y.port = x.port)
    (y_reader : y.reader = x.reader) (counted : x.counters.Bounded → y.counters.Bounded)
    (phased : x.Phased → y.Phased) : x.Moves y := by
  refine ⟨congrArg _ y_config, fun ⟨⟨_, _, _, faults⟩, hp, hd, hc⟩ => ?_, phased⟩
  have rest : ({ y.rotor with forced := x.rotor.forced } : Rotor) = { x.rotor with offset := 0, peak := 0 } :=
    y_rotor.trans (Lane.complete_stepForward h)
  have y_offset : y.rotor.offset = 0 := (congrArg Rotor.offset rest :)
  have y_peak : y.rotor.peak = 0 := (congrArg Rotor.peak rest :)
  have y_faults : y.rotor.faults = x.rotor.faults := (congrArg Rotor.faults rest :)
  refine ⟨?_, y_port ▸ hp, y_reader ▸ hd, counted hc⟩
  rw [y_offset, y_peak, y_faults]
  exact ⟨by decide, by decide, Nat.zero_le _, faults⟩

theorem Lane.alike_enterPassing (c : Settings) (x : Lane) : x.Alike (x.enterPassing c) :=
  ⟨rfl, rfl, rfl, rfl, id, rfl, rfl⟩

theorem Wb610.modLane_setLane (y : Lane) (f : Lane → Lane) : (p.setLane l y).modLane l f = p.setLane l (f y.sync) := by
  rw [Wb610.modLane, Wb610.lane_setLane_same, Wb610.setLane_setLane]

theorem Wb610.complete_setLane (y : Lane) :
    ((p.setLane l y).modLane l fun x => { x with rotor := x.rotor.complete })
      = p.setLane l { y with rotor := y.rotor.complete } :=
  p.modLane_setLane_of_outputFree l (Lane.outputFree_rotor Rotor.complete)

theorem Wb610.keeps_beginForced : p.Keeps u (p.beginForced l) := by
  unfold Wb610.beginForced
  refine (p.keeps_report ..).trans (Wb610.inCycle_modLane _ l fun x => ?_).keeps
  refine .trans ?_ (Lane.alike_requestTone _ .attention)
  exact ⟨rfl, rfl, rfl, rfl, id, rfl, rfl⟩

/-- A step forward that does not reach 36: the step, and what the lane makes of an offset of 6 or more. -/
theorem Wb610.keeps_forwardStep_short {x : Lane} (h : x.rotor.offset + 1 ≠ 36) (moves : (p.lane l).Moves x) :
    p.Keeps u ((p.setLane l x).forwardStep l lost) := by
  have stepped : p.Keeps u (p.setLane l x.stepForward) := p.keeps_setLane l (moves.trans (x.moves_stepForward h))
  have offset : x.stepForward.rotor.offset ≠ 36 := h
  simp only [Wb610.forwardStep, p.modLane_stepForward_rotor l, Wb610.lane_setLane_same, Lane.sync_rotor,
    Lane.sync_state, Lane.sync_config, if_neg offset]
  refine stepped.trans ?_
  split
  case h_1 =>
    split
    · exact (Wb610.inCycle_modLane _ l fun x => x.alike_enterPassing _).keeps
    · exact .refl _
  case h_2 | h_3 | h_4 => exact .refl _
  all_goals
    split
    · split
      · exact Wb610.keeps_beginForced _ l
      · exact .refl _
    · exact .refl _

/-- A step forward to 36: whatever the lane makes of it, it ends at a rest position. -/
theorem Wb610.keeps_forwardStep_end {x : Lane} (h : x.rotor.offset + 1 = 36) (moves : (p.lane l).Moves x) :
    p.Keeps u ((p.setLane l x).forwardStep l lost) := by
  have offset : x.stepForward.rotor.offset = 36 := h
  have reached : (6 : Int) ≤ 36 := by decide
  have rests {y : Lane} (ends : x.Moves y) : p.Keeps u (p.setLane l y) := p.keeps_setLane l (moves.trans ends)
  have unadmitted (hs : x.state.isUnadmitted = true) : p.Keeps u ((p.setLane l x).forwardStep l lost) := by
    cases hd : x.config.direction with
    | exit =>
      rw [p.forwardStep_of_freeExit l hs hd h, p.freeExitPassage_setLane l]
      refine rests (Lane.moves_completed h rfl rfl rfl rfl ?_ id)
      exact fun ⟨ha, hp, hr, hf, rest⟩ => ⟨ha, hp, hr, addOne32_le _ hf, rest⟩
    | entry =>
      have ends : x.Moves x.stepForward.passedUnpaid.warned :=
        Lane.moves_completed h rfl rfl rfl rfl
          (fun ⟨ha, hp, hr, hf, hu, he⟩ => ⟨ha, hp, hr, hf, addOne32_le _ hu, he⟩) id
      rw [p.forwardStep_of_unpaid l hs hd h, ← Wb610.report_setLane]
      refine .trans ?_ (Wb610.keeps_report _ ..)
      split
      · exact rests ends
      · rw [← Wb610.report_setLane]
        exact (rests ends).trans (Wb610.keeps_report _ ..)
  cases hs : x.state with
  | closed _ | idle | verifying | refusing _ => exact unadmitted (by rw [hs]; rfl)
  | free back =>
    rw [p.forwardStep_of_free l hs h, p.emergencyPassage_setLane l]
    have counted : p.Keeps u { p with tally := addOne16 p.tally } :=
      ⟨id, id, fun _ => id, id, id, id, fun ⟨lanes, tally, rest⟩ => ⟨lanes, addOne16_le _ tally, rest⟩, id, id⟩
    refine counted.trans (Wb610.keeps_setLane _ l (moves.trans (Lane.moves_completed h rfl rfl rfl rfl ?_ id)))
    exact fun ⟨ha, hp, hr, hf, hu, he⟩ => ⟨ha, hp, hr, hf, hu, addOne32_le _ he⟩
  | test c =>
    rw [p.forwardStep_of_test l hs h]
    exact rests (Lane.moves_completed h rfl rfl rfl rfl id id)
  | passing t =>
    have completes : (p.setLane l x).forwardStep l lost = (p.setLane l x.stepForward).completePassage l lost := by
      have state : x.stepForward.state = .passing t := hs
      simp only [Wb610.forwardStep, p.modLane_stepForward_rotor l, Wb610.lane_setLane_same, Lane.sync_rotor,
        Lane.sync_state, state, offset, if_true]
    rw [completes, Wb610.completePassage, Wb610.complete_setLane]
    refine .trans ?_ (Wb610.keeps_leaveCommitted _ l lost)
    exact rests (Lane.moves_completed h rfl rfl rfl rfl id id)
  | released t =>
    have completes : (p.setLane l x).forwardStep l lost
        = (p.setLane l (x.stepForward.sync.enterPassing p.settings)).completePassage l lost := by
      have state : x.stepForward.state = .released t := hs
      simp only [Wb610.forwardStep, p.modLane_stepForward_rotor l, Wb610.lane_setLane_same, Lane.sync_rotor,
        Lane.sync_state, state, offset, if_pos reached, if_true, p.modLane_setLane l, Wb610.setLane_settings]
    rw [completes, Wb610.completePassage, Wb610.complete_setLane]
    refine .trans ?_ (Wb610.keeps_leaveCommitted _ l lost)
    refine rests (Lane.moves_completed h rfl rfl rfl rfl id ?_)
    exact fun phased => (x.stepForward.moves_sync).phased phased

theorem Wb610.keeps_forwardStep {x : Lane} (moves : (p.lane l).Moves x) :
    p.Keeps u ((p.setLane l x).forwardStep l lost) := by
  by_cases h : x.rotor.offset + 1 = 36
  · exact p.keeps_forwardStep_end l lost h moves
  · exact p.keeps_forwardStep_short l lost h moves

/-! ## Steps back (R87, R89, R92, R95) -/

/-- R85, R87: a step back keeps the offset in range, or comes to a new rest position at once. -/
theorem Lane.moves_stepBack (x : Lane) (h : x.rotor.offset - 1 ≠ -4) : x.Moves x.stepBack := by
  refine ⟨rfl, fun ⟨⟨low, high, peak, faults⟩, rest⟩ => ⟨⟨?_, ?_, peak, faults⟩, rest⟩, id⟩
  all_goals simp only [Lane.stepBack, Rotor.stepBack]; omega

theorem Lane.moves_backAtRest (x : Lane) : x.Moves { x.stepBack with rotor := x.stepBack.rotor.rest } :=
  ⟨rfl, fun ⟨⟨_, _, _, faults⟩, rest⟩ => ⟨⟨by simp [Rotor.rest], by simp [Rotor.rest], Nat.zero_le _, faults⟩, rest⟩, id⟩

theorem Wb610.keeps_backwardStep {x : Lane} (moves : (p.lane l).Moves x) :
    p.Keeps u ((p.setLane l x).backwardStep l lost) := by
  have stepped : ((p.setLane l x).modLane l fun x => { x with rotor := x.rotor.stepBack }) = p.setLane l x.stepBack :=
    p.modLane_setLane_of_outputFree l (Lane.outputFree_rotor Rotor.stepBack)
  have rested : ((p.setLane l x.stepBack).modLane l fun x => { x with rotor := x.rotor.rest })
      = p.setLane l { x.stepBack with rotor := x.stepBack.rotor.rest } :=
    p.modLane_setLane_of_outputFree l (Lane.outputFree_rotor Rotor.rest)
  have attention (q : Wb610) : q.Keeps u (q.modLane l (Lane.requestTone .attention)) :=
    (q.inCycle_modLane l fun x => x.alike_requestTone .attention).keeps
  simp only [Wb610.backwardStep, stepped, Wb610.lane_setLane_same, Lane.sync_rotor, rested]
  split
  · refine (p.keeps_setLane l (moves.trans x.moves_backAtRest)).trans ?_
    split
    · exact (Wb610.keeps_report _ ..).trans (attention _)
    · exact (((Wb610.keeps_report _ ..).trans (Wb610.inCycle_releaseHold _ l).keeps).trans (attention _)).trans
        (Wb610.inCycle_leavePassing _ l lost).keeps
    all_goals exact .refl _
  · next h => exact p.keeps_setLane l (moves.trans (x.moves_stepBack h))

/-! ## Encoder faults and the lines (R78, R83, R84) -/

theorem Wb610.keeps_encoderFault : p.Keeps u (p.encoderFault l) := by
  have counted : p.Keeps u ((p.modLane l fun x =>
      { x with rotor := { x.rotor with faults := addOne16 (p.lane l).rotor.faults } }).report .rotorFault (some l) 0
        (addOne16 (p.lane l).rotor.faults) .none) := by
    refine .trans (p.keeps_modLane l ?_) (Wb610.keeps_report _ ..)
    exact ⟨rfl, fun ⟨⟨low, high, peak, faults⟩, rest⟩ => ⟨⟨low, high, peak, addOne16_le _ faults⟩, rest⟩, id⟩
  unfold Wb610.encoderFault
  split
  case h_1 => exact .refl p
  all_goals
    simp only
    split
    · exact counted.trans (Wb610.inCycle_faultClosure _ l).keeps
    · exact counted

theorem Wb610.keeps_rotorLines (a b : Bool) : p.Keeps u (p.rotorLines l a b lost) := by
  have lines : (p.lane l).Moves ((p.lane l).onLines a b) := ⟨rfl, id, id⟩
  unfold Wb610.rotorLines
  simp only
  split
  · exact .refl p
  · exact p.keeps_forwardStep l lost lines
  · exact p.keeps_backwardStep l lost lines
  · exact (p.keeps_setLane l lines).trans (Wb610.keeps_encoderFault _ l)

end

end Sys2Proof.Machine
end

