-- ==== Sys2Proof/Proofs/KeptByRequests.lean ====
section
/-! SUPPORT. The host's requests keep the invariants of every step (Chapters 1, 3, 6, 8 and 11). -/

namespace Sys2Proof.Machine

section
variable {u : Prop} (p : Wb610) (l : LaneNo) (lost : Bool) (f : Frame)

/-! ## Requests to the part (R175, R184, R189-R191) -/

theorem Wb610.keeps_unknownType :
    p.Keeps u (p.serve (fun f => !requestTypes.contains f.type) fun q f =>
      { q with
        responses :=
          q.responses ++ [{ type := 0xFF#8, tag := f.tag, payload := [ResultCode.badRequest.code, f.type] }] }) :=
  p.keeps_serve fun q f can _ _ => q.keeps_answer can 0x7F#8 f.tag .badRequest [f.type]

theorem Wb610.keeps_ping : p.Keeps u (p.serveFixed 0x01#8 0 fun q f => q.respond f .ok q.pingFields) :=
  p.keeps_serveFixed fun q f can _ _ => q.keeps_respond can f _ _

theorem Wb610.keeps_continueStatus (h : p.MayAnswer) (tag : Byte) (read : List (Option (List Byte))) :
    p.Keeps u (p.continueStatus tag read) := by
  unfold Wb610.continueStatus
  split
  · exact p.keeps_conclude h ..
  · exact p.keeps_proceed h _

theorem Wb610.keeps_statusRead (blocks : List StatusBlock) : p.Keeps u (p.statusRead blocks) := by
  unfold Wb610.statusRead
  split
  · next hr => exact p.keeps_continueStatus (.inr ⟨_, hr⟩) _ _
  case h_6 => exact p.keeps_serveFixed fun q f can _ _ => q.keeps_continueStatus (.inl can) _ _
  all_goals exact .refl p

theorem Wb610.keeps_configureGate (can : p.CanAnswer) : p.Keeps u (p.configureGate f) := by
  unfold Wb610.configureGate
  split
  · exact p.keeps_respond can f _ _
  · next c _ =>
    have set : p.Keeps u { p with settings := c } := ⟨id, id, fun _ => id, id, id, id, id, id, id⟩
    exact set.respond can f _ _

theorem Wb610.keeps_clock {value : Nat} (h : value ≤ 259199) (t : Timer) :
    p.Keeps u { p with clock := some value, secondTimer := t } := by
  refine ⟨id, id, fun _ => id, id, id, id, ?_, id, id⟩
  rintro ⟨lanes, tally, dropped, sample, -⟩
  refine ⟨lanes, tally, dropped, sample, fun c hc => ?_⟩
  cases hc
  exact h

theorem Wb610.keeps_setTime (can : p.CanAnswer) : p.Keeps u (p.setTime f) := by
  unfold Wb610.setTime
  simp only
  split
  · next h => exact (p.keeps_clock h _).respond can f _ _
  · exact p.keeps_respond can f _ _

/-! ## Requests to a lane (R52, R73-R77, R118) -/

/-- R52, R117: a lane configured keeps its counts in range; the reader put on the bus starts afresh. -/
theorem Lane.inRange_configure {x : Lane} (c : LaneConfig) (h : x.InRange) : (x.configure c).InRange := by
  obtain ⟨rotor, port, misses, counters⟩ := h
  unfold Lane.configure Lane.changeCardSource
  split
  · exact ⟨rotor, port, misses, counters⟩
  split
  · exact ⟨rotor, port, Nat.zero_le 3, counters⟩
  split
  · exact ⟨rotor, port, misses, counters⟩
  · exact ⟨rotor, port, misses, counters⟩

@[simp] theorem Lane.configure_signals (x : Lane) (c : LaneConfig) : (x.configure c).signals = x.signals := by
  unfold Lane.configure Lane.changeCardSource
  split
  · rfl
  split
  · rfl
  split <;> rfl

theorem Poll.changeCardSource_lane (m : Poll) (old new : CardSource) : (m.changeCardSource l old new).lane = m.lane := by
  unfold Poll.changeCardSource
  split <;> rfl

/-- R117: a poll in flight to a reader that is on the bus knows when the reader leaves it. -/
theorem Poll.leftBus_of_changeCardSource {m : Poll} {old new : CardSource}
    (h : (m.lane = l ∧ old = .bus) ∨ m.leftBus = true) :
    (m.lane = l ∧ new = .bus) ∨ (m.changeCardSource l old new).leftBus = true := by
  unfold Poll.changeCardSource
  split
  · exact .inr rfl
  · next unchanged =>
    refine h.imp_left fun ⟨at_l, was⟩ => ⟨at_l, ?_⟩
    by_contra leaves
    exact unchanged ⟨at_l, was, leaves⟩

theorem Wb610.keeps_configuredLane (c : LaneConfig) : p.Keeps u (p.configuredLane l c) := by
  refine .trans ?_ (Wb610.keeps_chooseReader _)
  refine ⟨p.outputs_setLane l fun h => ?_, id, fun _ => id, id, id, id,
    p.inRange_setLane l (Lane.inRange_configure c), id, fun pointed q hq => ?_⟩
  · rw [Lane.Phased, Lane.configure_signals]
    exact h
  · obtain ⟨m, hm, rfl⟩ := Option.mem_map.mp hq
    obtain ⟨pointer, source⟩ := pointed m hm
    rw [Poll.changeCardSource_lane]
    refine ⟨pointer, ?_⟩
    by_cases at_l : m.lane = l
    · have marked := Poll.leftBus_of_changeCardSource (l := l) (new := c.cardSource) (source.imp_left fun h => ⟨at_l, h⟩)
      have config : (((p.modLane l (Lane.configure c)).lane m.lane).config).cardSource = c.cardSource := by
        rw [at_l, Wb610.modLane, Wb610.lane_setLane_same]
        rfl
      rw [at_l] at marked
      exact marked.imp (fun h => config.trans h.2) id
    · have elsewhere : (p.modLane l (Lane.configure c)).lane m.lane = p.lane m.lane := p.lane_setLane_ne l _ _ at_l
      have unmarked : m.changeCardSource l (p.lane l).config.cardSource c.cardSource = m := if_neg fun h => at_l h.1
      rw [unmarked]
      exact source.imp_left fun h => (congrArg (·.config.cardSource) elsewhere).trans h

theorem Wb610.configuredLane_canAnswer (can : p.CanAnswer) (c : LaneConfig) : (p.configuredLane l c).CanAnswer := by
  unfold Wb610.configuredLane
  rcases Wb610.chooseReader_cases _ with e | ⟨m, -, e⟩
  · rw [e]; exact can
  · rw [e]; exact can

theorem Wb610.keeps_configureLane (can : p.CanAnswer) : p.Keeps u (p.configureLane f) := by
  unfold Wb610.configureLane
  split
  · exact p.keeps_respond can f _ _
  · split
    · exact (p.keeps_configuredLane _ _).respond (p.configuredLane_canAnswer _ can _) f _ _
    · exact p.keeps_respond can f _ _

/-- R73, R76: a lane that opens or is tested starts at a rest position. -/
theorem Rotor.rest_range (r : Rotor) {faults : Nat} (bound : faults ≤ 65535) :
    -3 ≤ r.rest.offset ∧ r.rest.offset ≤ 35 ∧ r.rest.peak ≤ 35 ∧ faults ≤ 65535 :=
  ⟨by simp [Rotor.rest], by simp [Rotor.rest], Nat.zero_le _, bound⟩

theorem Lane.moves_openLane (x : Lane) : x.Moves x.openLane :=
  ⟨rfl, fun h => ⟨Rotor.rest_range x.rotor (Nat.zero_le _), h.2⟩, id⟩

theorem Wb610.keeps_openLane (can : p.CanAnswer) : p.Keeps u (p.openLane f) := by
  unfold Wb610.openLane
  split
  · exact p.keeps_respond can f _ _
  · next l _ =>
    split
    · split
      · exact p.keeps_respond can f _ _
      · exact (p.keeps_modLane l (Lane.moves_openLane _)).respond can f _ _
    · exact p.keeps_respond can f _ _

theorem Wb610.keeps_closeRequest (can : p.CanAnswer) : p.Keeps u (p.closeRequest f) := by
  have acts {q : Wb610} (h : p.InCycle q) (code : ResultCode) : p.Keeps u (q.respond f code []) :=
    h.keeps.respond (h.canAnswer can) f code []
  unfold Wb610.closeRequest
  split
  · exact p.keeps_respond can f _ _
  · next l _ =>
    split
    · exact p.keeps_respond can f _ _
    · exact acts (p.inCycle_modLane l fun x => x.alike_close .host) _
    case h_7 | h_8 => exact acts (p.inCycle_modLane l Lane.alike_deferClose) _
    all_goals exact acts (p.inCycle_closeLane l .host) _

theorem Lane.moves_testAct (a : TestAction) (x : Lane) : x.Moves (x.testAct a) := by
  unfold Lane.testAct
  split
  case h_4 => exact (x.alike_requestTone _).moves
  all_goals exact ⟨rfl, id, id⟩

theorem Lane.moves_enterTest (cause : ClosedCause) (x : Lane) : x.Moves (x.enterTest cause) :=
  ⟨rfl, fun h => ⟨Rotor.rest_range x.rotor h.1.2.2.2, h.2⟩, id⟩

theorem Wb610.keeps_testLane (can : p.CanAnswer) (a : TestAction) : p.Keeps u (p.testLane f l a) := by
  unfold Wb610.testLane
  split
  · next cause _ =>
    exact (p.keeps_modLane l ((Lane.moves_enterTest cause _).trans (Lane.moves_testAct a _))).respond can f _ _
  · exact (p.keeps_modLane l (Lane.moves_testAct a _)).respond can f _ _
  all_goals exact p.keeps_respond can f _ _

theorem Wb610.keeps_laneTest (action : Nat) : p.Keeps u (p.laneTest action) := by
  refine p.keeps_serve fun q f can _ _ => ?_
  split
  · exact q.keeps_respond can f _ _
  · split
    · exact q.keeps_testLane _ f can _
    · exact q.keeps_respond can f _ _

theorem Wb610.keeps_remotePresent (can : p.CanAnswer) : p.Keeps u (p.remotePresent lost f) := by
  unfold Wb610.remotePresent
  split
  · next l k _ _ =>
    split
    · have arrives := p.inCycle_arrive l lost { key := k, source := .remote }
      exact arrives.keeps.respond (arrives.canAnswer can) f _ _
    · exact p.keeps_respond can f _ _
  · exact p.keeps_respond can f _ _

/-! ## Journal, counters and sweep (R143, R151, R154, R155) -/

theorem Wb610.keeps_readJournal (can : p.CanAnswer) : p.Keeps u (p.readJournal f) := by
  unfold Wb610.readJournal
  simp only
  split
  · exact p.keeps_respond can f _ _
  · exact p.keeps_respond can f _ _

theorem Wb610.keeps_readCounters (option : Nat) : p.Keeps u (p.readCounters option) := by
  refine p.keeps_serve fun q f can _ _ => ?_
  split
  · exact q.keeps_respond can f _ _
  split
  · exact q.keeps_proceed (.inl can) _
  · exact q.keeps_respond can f _ _

theorem Wb610.keeps_continueCounters (h : p.MayAnswer) (tag : Byte) (clear : Bool) (todo : List LaneNo)
    (values : List Byte) : p.Keeps u (p.continueCounters tag clear todo values) := by
  unfold Wb610.continueCounters
  split
  · exact p.keeps_conclude h ..
  · exact p.keeps_proceed h _

theorem Lane.moves_clearCounters (x : Lane) : x.Moves { x with counters := .zero } :=
  ⟨rfl, fun ⟨rotor, port, misses, _⟩ => ⟨rotor, port, misses, by simp [Counters.zero]⟩, id⟩

theorem Wb610.keeps_countersReadLane : p.Keeps u p.countersReadLane := by
  unfold Wb610.countersReadLane
  split
  · next tag clear l todo values hr =>
    have cleared : p.Keeps u (if clear then p.modLane l fun x => { x with counters := .zero } else p) := by
      split
      · exact p.keeps_modLane l (Lane.moves_clearCounters _)
      · exact .refl p
    have goesOn : (if clear then p.modLane l fun x => { x with counters := .zero } else p).request = p.request := by
      split <;> rfl
    exact cleared.trans (Wb610.keeps_continueCounters _ (.inr ⟨_, goesOn.trans hr⟩) ..)
  · next hr => exact p.keeps_continueCounters (.inr ⟨_, hr⟩) ..
  all_goals exact .refl p

theorem Wb610.keeps_beginFastPass : p.Keeps u p.beginFastPass :=
  ⟨id, id, fun _ => id, id, id, id, id, fun _ => ⟨rfl, fun _ => Nat.zero_le _, Nat.zero_le _⟩, id⟩

theorem Wb610.keeps_sweepNow (can : p.CanAnswer) : p.Keeps u (p.sweepNow f) := by
  unfold Wb610.sweepNow
  split
  · exact p.keeps_respond can f _ _
  · exact p.keeps_beginFastPass.respond can f _ _

/-! ## RESTART (R176) -/

/-- What every act of a fold leaves as it was, the fold leaves as it was. -/
theorem Wb610.eachLane_same {α : Type} (field : Wb610 → α) {act : Wb610 → LaneNo → Wb610}
    (h : ∀ p l, field (act p l) = field p) : field (p.eachLane act) = field p := by
  have folds (ls : List LaneNo) : field (ls.foldl act p) = field p := by
    induction ls generalizing p with
    | nil => rfl
    | cons l ls ih => exact (ih _).trans (h p l)
  exact folds laneNos

theorem Lane.moves_restart (x : Lane) : x.Moves x.restart := by
  refine ⟨rfl, fun ⟨_, _, _, counters⟩ => ⟨Rotor.rest_range x.rotor (Nat.zero_le _), ?_, Nat.zero_le 3, counters⟩, id⟩
  exact ⟨Nat.zero_le _, Nat.le_refl _, Nat.zero_le _⟩

theorem Wb610.inCycle_cancel : p.InCycle ((p.dropQuery l).releaseHold l) :=
  (p.inCycle_dropQuery l).trans (Wb610.inCycle_releaseHold _ l)

theorem Wb610.keeps_restartLane : p.Keeps u (p.restartLane l) :=
  (p.inCycle_cancel l).keeps.trans (Wb610.keeps_modLane _ l (Lane.moves_restart _))

theorem Wb610.restartLane_canAnswer (can : p.CanAnswer) : (p.eachLane Wb610.restartLane).CanAnswer := by
  have request := p.eachLane_same Wb610.request (act := Wb610.restartLane) fun q l => (q.inCycle_cancel l).request
  have responses := p.eachLane_same Wb610.responses (act := Wb610.restartLane) fun q l => (q.inCycle_cancel l).responses
  rw [Wb610.CanAnswer, request, responses]
  exact can

/-- The bus arbiter does not look at the responses. -/
theorem Wb610.respond_chooseReader (code : ResultCode) (fields : List Byte) :
    p.chooseReader.respond f code fields = (p.respond f code fields).chooseReader := by
  have next : (p.respond f code fields).nextReader = p.nextReader := rfl
  have poll : (p.respond f code fields).poll = p.poll := rfl
  unfold Wb610.chooseReader
  rw [next, poll]
  cases p.poll with
  | some m => rfl
  | none => cases p.nextReader <;> rfl

/-- R176, R193: the gate's blocks restarted and the response placed that the handler then waits for. -/
theorem Wb610.keeps_restartGate (can : p.CanAnswer) (type : f.type = 0x50#8) (visit released : Nat) :
    p.Keeps u
      ({ p with
          pollPointer := 9, poll := none, verifyQueue := [], visitTimer := some visit, fastPass := false
          fastCount := 0, handler := .awaitingRestartResponse, restartReleased := released }.respond f .ok []) where
  outputs := id
  sound := id
  codes _ := id
  queues := by
    rintro ⟨rx, -, rest⟩
    refine ⟨rx, ?_, rest⟩
    simp only [Wb610.respond_responses, Wb610.respond_request, can.1, List.length_append]
    exact can.2
  handler _ := by
    refine ⟨nofun, fun _ => .inl ?_⟩
    simp [Wb610.respond, Wb610.answer, Frame.isRestartResponse, type, ResultCode.code]
  journal := id
  counts := id
  sweep _ := ⟨rfl, nofun, Nat.zero_le _⟩
  poll _ q hq := by cases hq

theorem Wb610.keeps_restart (can : p.CanAnswer) (type : f.type = 0x50#8) :
    p.Keeps u (p.restartBlocks.respond f .ok []) := by
  have lanes : p.Keeps u (p.eachLane Wb610.restartLane) := p.keeps_eachLane Wb610.keeps_restartLane
  have gate := Wb610.keeps_restartGate (u := u) _ f (p.restartLane_canAnswer can) type p.settings.visitTime p.holdCount
  unfold Wb610.restartBlocks
  rw [Wb610.respond_chooseReader]
  exact (lanes.trans gate).trans (Wb610.keeps_chooseReader _)

end

end Sys2Proof.Machine
end

