-- ==== Sys2Proof/Proofs/TableEdits.lean ====
section
/-! SUPPORT. The host's edits of the credential table (Chapter 1): what each may do to it, and what every edit keeps. -/

namespace Sys2Proof.Machine

/-! ## The edits -/

/-- R10: the lane that holds an entry, if any. -/
def Entry.holdLane (e : Entry) : Option LaneNo := e.state.hold.map (·.lane)

/-- One edit of the table that the host asks for: no entry is taken into a hold or out of one, and no HELD entry leaves
the table (R11-R17, R20). -/
inductive Table.HostEdit (t : Table) : Table → Prop where
  | same : t.HostEdit t
  | modify (k : Key) (g : Entry → Entry) (key : ∀ e, (g e).key = e.key)
      (hold : ∀ e, t.find k = some e → (g e).holdLane = e.holdLane) :
    t.HostEdit (t.modify k g)
  | replace (new old : Entry) (found : t.find new.key = some old) (free : old.holdLane = none)
    (new_free : new.holdLane = none) : t.HostEdit (t.replace new)
  | append (e : Entry) (absent : t.find e.key = none) (room : (t.bucket (bucketOf e.key)).entries.length < 32)
    (free : e.holdLane = none) : t.HostEdit (t.append e)
  | remove (k : Key) (e : Entry) (found : t.find k = some e) (free : e.holdLane = none) : t.HostEdit (t.remove k)
  | clear (b : Nat) (low : b < 4096) (free : ∀ e ∈ (t.bucket b).entries, e.holdLane = none) :
    t.HostEdit (t.setBucket b .empty)

section
variable {t u : Table}

theorem Table.HostEdit.sound (h : t.HostEdit u) (s : t.Sound) : u.Sound := by
  cases h with
  | same => exact s
  | modify k g key _ => exact t.sound_modify s k g key
  | replace new old _ _ _ => exact Table.sound_replace s
  | append e absent room _ => exact Table.sound_append s absent room
  | remove k e _ _ => exact Table.sound_remove s k
  | clear b low _ => exact t.sound_setBucket _ _ s low (Bucket.sound_empty b)

theorem Table.HostEdit.codes (h : t.HostEdit u) (c : t.CodesAgree) : u.CodesAgree := by
  cases h with
  | same => exact c
  | modify k g _ _ => exact t.codesAgree_modify c k g
  | replace | append | remove => exact t.codesAgree_writeEntries _ _ c
  | clear b _ _ => exact Table.codesAgree_setBucket c rfl

end

/-! ## The requests' edits -/

section
variable (t : Table) (piece : List Byte) (e : Entry)

theorem Entry.holdLane_of_not_held {e : Entry} (h : e.isHeld = false) : e.holdLane = none := by
  rw [Entry.isHeld, Option.isSome_eq_false_iff, Option.isNone_iff_eq_none] at h
  rw [Entry.holdLane, h]
  rfl

/-- R12: no record carries a hold. -/
theorem holdLane_of_entryStateOf {state expiry : Nat} {s : EntryState} (h : entryStateOf state expiry = some s) :
    s.hold = none := by
  unfold entryStateOf at h
  split at h
  · split at h <;> cases h
    rfl
  · split at h
    · cases h
    · split at h <;> cases h <;> rfl

theorem holdLane_of_entryOfRecord {e : Entry} (h : entryOfRecord piece = some e) : e.holdLane = none := by
  simp only [entryOfRecord, Option.bind_eq_bind, Option.bind_eq_some_iff] at h
  obtain ⟨key, -, cls, -, window, -, passouts, -, state, hstate, lastUse, -, last⟩ := h
  split at last
  · cases last
    rw [Entry.holdLane, holdLane_of_entryStateOf hstate]
    rfl
  · cases last

theorem Table.hostEdit_loadRecord : t.HostEdit (t.loadRecord piece).1 := by
  unfold Table.loadRecord
  split
  · exact .same
  next e he =>
  have free := holdLane_of_entryOfRecord piece he
  simp only
  split
  · exact .same
  split
  · next old found =>
    split
    · exact .same
    · next loose => exact .replace e old found (Entry.holdLane_of_not_held (by simpa using loose)) free
  · next absent =>
    split
    · next room => exact .append e absent room free
    · exact .same

theorem Table.hostEdit_deleteKey : t.HostEdit (t.deleteKey piece).1 := by
  unfold Table.deleteKey
  split
  · exact .same
  split
  · exact .same
  next k _ _ e found =>
  split
  · exact .same
  · next loose => exact .remove k e found (Entry.holdLane_of_not_held (by simpa using loose))

theorem Entry.revoke_key : e.revoke.key = e.key := by
  unfold Entry.revoke
  split <;> rfl

theorem Entry.revoke_holdLane : e.revoke.holdLane = e.holdLane := by
  unfold Entry.revoke Entry.holdLane
  split <;> (next hs => simp [hs, EntryState.hold])

theorem Table.hostEdit_revokeKey : t.HostEdit (t.revokeKey piece).1 := by
  unfold Table.revokeKey
  split
  · exact .same
  split
  · exact .same
  · exact .modify _ _ Entry.revoke_key fun e _ => e.revoke_holdLane

theorem Entry.enterElsewhere_key (time : Nat) : (e.enterElsewhere time).key = e.key := by
  unfold Entry.enterElsewhere
  split <;> rfl

theorem Entry.enterElsewhere_holdLane (time : Nat) : (e.enterElsewhere time).holdLane = e.holdLane := by
  unfold Entry.enterElsewhere Entry.holdLane
  split <;> (next hs => simp [hs, EntryState.hold])

theorem Table.hostEdit_enterElsewhere (k : Option Key) (time : Nat) : t.HostEdit (t.enterElsewhere k time).1 := by
  unfold Table.enterElsewhere
  split
  · exact .same
  split
  · exact .same
  split
  · exact .same
  split
  · exact .same
  · exact .same
  all_goals
    exact .modify _ _ (fun e => e.enterElsewhere_key time) fun e _ => e.enterElsewhere_holdLane time

theorem Table.hostEdit_passOutElsewhere (k : Option Key) (expiry : Nat) : t.HostEdit (t.passOutElsewhere k expiry).1 := by
  have passes (k : Key) (e : Entry) (found : t.find k = some e) (free : e.holdLane = none) :
      t.HostEdit (t.modify k (Entry.passOutElsewhere expiry)) := by
    refine .modify _ _ (fun _ => rfl) fun e' found' => ?_
    rw [found] at found'
    cases found'
    exact free.symm
  unfold Table.passOutElsewhere
  split
  · exact .same
  split
  · exact .same
  split
  · exact .same
  next e found =>
  split
  · exact .same
  · exact .same
  · exact .same
  all_goals next hs => exact passes _ e found (by rw [Entry.holdLane, hs]; rfl)

end

/-! ## Requests that edit the table -/

section
variable {u : Prop} (p : Wb610) (f : Frame)

theorem Wb610.keeps_hostEdit {t : Table} (h : p.table.HostEdit t) : p.Keeps u { p with table := t } :=
  p.keeps_table h.sound fun _ => h.codes

theorem Wb610.keeps_serveList (type : Byte) (maxCount size : Nat) (request : Byte → List (List Byte) → Request) :
    p.Keeps u (p.serveList type maxCount size request) := by
  refine p.keeps_serve fun q f can _ _ => ?_
  split
  · exact q.keeps_respond can f _ _
  · exact q.keeps_proceed (.inl can) _

theorem Wb610.keeps_continueLoad (h : p.MayAnswer) (tag : Byte) (todo : List (List Byte)) (statuses : List Byte) :
    p.Keeps u (p.continueLoad tag todo statuses) := by
  unfold Wb610.continueLoad
  split
  · exact p.keeps_conclude h ..
  · exact p.keeps_proceed h _

theorem Wb610.keeps_continueDelete (h : p.MayAnswer) (tag : Byte) (todo : List (List Byte)) (statuses : List Byte) :
    p.Keeps u (p.continueDelete tag todo statuses) := by
  unfold Wb610.continueDelete
  split
  · exact p.keeps_conclude h ..
  · exact p.keeps_proceed h _

theorem Wb610.keeps_continueRevoke (h : p.MayAnswer) (tag : Byte) (todo : List (List Byte)) (statuses : List Byte) :
    p.Keeps u (p.continueRevoke tag todo statuses) := by
  unfold Wb610.continueRevoke
  split
  · exact p.keeps_conclude h ..
  · exact p.keeps_proceed h _

theorem Wb610.keeps_tableLoadRecord : p.Keeps u p.tableLoadRecord := by
  unfold Wb610.tableLoadRecord
  split
  · next record todo statuses hr =>
    have edited := p.keeps_hostEdit (u := u) (p.table.hostEdit_loadRecord record)
    refine edited.trans (Wb610.keeps_continueLoad _ ?_ ..)
    exact .inr ⟨_, hr⟩
  · next hr => exact p.keeps_continueLoad (.inr ⟨_, hr⟩) ..
  all_goals exact .refl p

theorem Wb610.keeps_tableDeleteKey : p.Keeps u p.tableDeleteKey := by
  unfold Wb610.tableDeleteKey
  split
  · next piece todo statuses hr =>
    have edited := p.keeps_hostEdit (u := u) (p.table.hostEdit_deleteKey piece)
    refine edited.trans (Wb610.keeps_continueDelete _ ?_ ..)
    exact .inr ⟨_, hr⟩
  · next hr => exact p.keeps_continueDelete (.inr ⟨_, hr⟩) ..
  all_goals exact .refl p

theorem Wb610.keeps_tableRevokeKey : p.Keeps u p.tableRevokeKey := by
  unfold Wb610.tableRevokeKey
  split
  · next piece todo statuses hr =>
    have edited := p.keeps_hostEdit (u := u) (p.table.hostEdit_revokeKey piece)
    refine edited.trans (Wb610.keeps_continueRevoke _ ?_ ..)
    exact .inr ⟨_, hr⟩
  · next hr => exact p.keeps_continueRevoke (.inr ⟨_, hr⟩) ..
  all_goals exact .refl p

theorem Wb610.keeps_useUpdate (kind : Nat) : p.Keeps u (p.useUpdate kind) := by
  refine p.keeps_serve fun q f can _ _ => ?_
  split
  · exact q.keeps_respond can f _ _
  split
  · have edited := q.keeps_hostEdit (u := u)
      (q.table.hostEdit_enterElsewhere (keyAt f.payload 0) (fieldAt f.payload 12 4))
    exact edited.respond can f _ _
  split
  · have edited := q.keeps_hostEdit (u := u)
      (q.table.hostEdit_passOutElsewhere (keyAt f.payload 0) (fieldAt f.payload 12 4))
    exact edited.respond can f _ _
  · exact q.keeps_respond can f _ _

theorem Wb610.keeps_readByKey (can : p.CanAnswer) : p.Keeps u (p.readByKey f) := by
  unfold Wb610.readByKey
  split
  · exact p.keeps_respond can f _ _
  · simp only
    split <;> exact p.keeps_respond can f _ _

theorem Wb610.keeps_readByBucket (can : p.CanAnswer) : p.Keeps u (p.readByBucket f) := by
  unfold Wb610.readByBucket
  simp only
  split
  · exact p.keeps_respond can f _ _
  · split <;> exact p.keeps_respond can f _ _

/-- R20: a bucket is cleared while none of its entries is HELD. -/
theorem Table.hostEdit_clear (t : Table) (b : Fin 4096) (h : (t.bucket b.val).entries.any Entry.isHeld = false) :
    t.HostEdit (t.setBucket b.val .empty) :=
  .clear b.val b.isLt fun e he => Entry.holdLane_of_not_held (by simpa using List.any_eq_false.mp h e he)

theorem Wb610.keeps_clearBucket (can : p.CanAnswer) : p.Keeps u (p.clearBucket f) := by
  unfold Wb610.clearBucket
  split
  · exact p.keeps_respond can f _ _
  next b _ =>
  simp only
  split
  · exact p.keeps_respond can f _ _
  · next loose =>
    exact (p.keeps_hostEdit (p.table.hostEdit_clear b (by simpa using loose))).respond can f _ _

theorem Wb610.keeps_clearTable (can : p.CanAnswer) : p.Keeps u (p.clearTable f) := by
  unfold Wb610.clearTable
  split
  · have cleared : p.Keeps u { p with table := .empty } :=
      p.keeps_table (fun _ => Table.sound_empty) fun _ _ => Table.codesAgree_empty
    exact cleared.respond can f _ _
  · exact p.keeps_respond can f _ _

/-! ## Verdicts (R126-R131) -/

/-- R27: all that a verified insert can do to the table. -/
theorem Table.verifiedInsert_cases (t : Table) (l : LaneNo) (purpose : Purpose) (e : Entry) :
    (t.verifiedInsert l purpose e).1 = t ∧ (t.verifiedInsert l purpose e).2 ≠ .inserted
      ∨ t.find e.key = none ∧ (t.bucket (bucketOf e.key)).entries.length < 32
        ∧ t.verifiedInsert l purpose e = (t.append (e.takeHold l purpose), .inserted) := by
  unfold Table.verifiedInsert
  simp only
  split
  · exact .inl ⟨rfl, nofun⟩
  split
  · exact .inl ⟨rfl, nofun⟩
  · next absent =>
    split
    · next room => exact .inr ⟨absent, room, rfl⟩
    · exact .inl ⟨rfl, nofun⟩

theorem Wb610.keeps_verifiedInsert (l : LaneNo) (purpose : Purpose) (e : Entry) :
    p.Keeps u { p with table := (p.table.verifiedInsert l purpose e).1 } := by
  rcases p.table.verifiedInsert_cases l purpose e with ⟨same, -⟩ | ⟨absent, room, inserted⟩
  · rw [same]
    exact .refl p
  · rw [inserted]
    refine p.keeps_table (fun s => Table.sound_append s ?_ ?_) fun _ c => p.table.codesAgree_writeEntries _ _ c
    · rw [Entry.takeHold_key]
      exact absent
    · rw [Entry.takeHold_key]
      exact room

theorem Wb610.keeps_verdictAdmitUnheld (can : p.CanAnswer) (l : LaneNo) (q : Query) :
    p.Keeps u (p.verdictAdmitUnheld f l q) := by
  unfold Wb610.verdictAdmitUnheld
  split
  · exact p.keeps_respond can f _ _
  next e _ =>
  have acts {r : Wb610} (h : ({ p with table := (p.table.verifiedInsert l q.purpose e).1 } : Wb610).InCycle r)
      (settlement : Nat) : p.Keeps u (r.respondSettled f l settlement) :=
    ((p.keeps_verifiedInsert l q.purpose e).trans h.keeps).respond (h.canAnswer can) f _ _
  have dropped := Wb610.inCycle_dropQuery { p with table := (p.table.verifiedInsert l q.purpose e).1 } l
  simp only
  split
  · refine acts ((dropped.trans ?_).trans (Wb610.inCycle_admitHolder _ l true false)) 0
    exact Wb610.inCycle_modLane _ l fun _ => ⟨rfl, rfl, rfl, rfl, id, rfl, rfl⟩
  · exact acts (dropped.trans (Wb610.inCycle_refuse _ l _)) _
  · exact acts (dropped.trans (Wb610.inCycle_refuse _ l _)) _

theorem Wb610.keeps_takeVerdict (can : p.CanAnswer) : p.Keeps u (p.takeVerdict f) := by
  have acts {q : Wb610} (h : p.InCycle q) (l : LaneNo) (settlement : Nat) :
      p.Keeps u (q.respondSettled f l settlement) := h.keeps.respond (h.canAnswer can) f _ _
  unfold Wb610.takeVerdict
  split
  · split
    · exact p.keeps_respond can f _ _
    next l q _ =>
    split
    · exact acts ((p.inCycle_cancel l).trans (Wb610.inCycle_refuse _ l _)) l _
    split
    · exact acts ((p.inCycle_dropQuery l).trans (Wb610.inCycle_admitHolder _ l _ _)) l _
    · exact p.keeps_verdictAdmitUnheld f can l q
    · exact p.keeps_verdictAdmitUnheld f can l q
  · exact p.keeps_respond can f _ _

end

end Sys2Proof.Machine
end

