-- ==== Sys2Proof/Proofs/KeptByEvents.lean ====
section
/-! SUPPORT. The table sweep, the gate inputs, the lane timers and one tick keep the invariants of every step
(Chapters 7 and 10, log 1); with the rest, every command and every tick keeps them. -/

namespace Sys2Proof.Machine

section
variable {u : Prop} (p : Wb610) (l : LaneNo)

/-! ## The sweep (R137-R144) -/

theorem Wb610.inCycle_table {t : Table} (sound : p.table.Sound → t.Sound) (codes : p.table.CodesAgree → t.CodesAgree) :
    p.InCycle { p with table := t } :=
  ⟨fun _ => .refl _, rfl, List.prefix_refl _, id, id, sound, codes⟩

/-- R138: a bucket whose stored code agrees is not marked. -/
theorem Wb610.inCycle_compareBucket (b : Fin 4096) : p.InCycle (p.compareBucket b.val) := by
  unfold Wb610.compareBucket
  simp only
  split
  · next differs =>
    refine .trans (p.inCycle_table (fun s => ?_) fun c => ?_) (Wb610.inCycle_report _ ..)
    · exact p.table.sound_setBucket _ _ s b.isLt (p.table.sound_bucket s b.val)
    · exact absurd (c.bucket b.val) differs.1
  · exact .refl p

theorem Wb610.inCycle_reportExpired (b : Nat) (gone : List Entry) : p.InCycle (p.reportExpired b gone) := by
  induction gone generalizing p with
  | nil => exact .refl p
  | cons e rest ih => exact (p.inCycle_report ..).trans (ih _)

/-- R140: what the conversion makes of an entry. -/
def Entry.converted (clock : Option Nat) (e : Entry) : Entry := if e.expired clock then e.spend else e

theorem Entry.converted_key (clock : Option Nat) (e : Entry) : (e.converted clock).key = e.key := by
  unfold Entry.converted
  split <;> rfl

theorem Wb610.inCycle_convertExpired (b : Fin 4096) : p.InCycle (p.convertExpired b.val) := by
  unfold Wb610.convertExpired
  simp only
  split
  · exact .refl p
  · refine .trans (p.inCycle_table (fun s => ?_) fun c => ?_) (Wb610.inCycle_reportExpired _ _ _)
    · exact p.table.sound_setBucket _ _ s b.isLt
        (Bucket.sound_map (p.table.sound_bucket s b.val) (Entry.converted p.clock) (Entry.converted_key p.clock) _ _)
    · exact p.table.codesAgree_writeEntries _ _ c

/-- R137: the bucket visited, before the pointer moves. -/
theorem Wb610.inCycle_visited :
    p.InCycle ((p.compareBucket p.sweepPointer.val).convertExpired p.sweepPointer.val) :=
  (p.inCycle_compareBucket p.sweepPointer).trans (Wb610.inCycle_convertExpired _ p.sweepPointer)

theorem Wb610.keeps_normalPace (h : p.visitTimer.isSome = true) (b : Fin 4096) (t : Ticks) :
    p.Keeps u { p with sweepPointer := b, visitTimer := some t } := by
  refine ⟨id, id, fun _ => id, id, id, id, id, ?_, id⟩
  rintro ⟨paced, -, count⟩
  have normal : p.fastPass = false := by simpa [h] using paced
  exact ⟨by simp [normal], fun fast => by simp [normal] at fast, count⟩

theorem Wb610.keeps_sweepVisit : p.Keeps u p.sweepVisit := by
  have visited := p.inCycle_visited
  unfold Wb610.sweepVisit Wb610.visit
  simp only
  generalize (p.compareBucket p.sweepPointer.val).convertExpired p.sweepPointer.val = q at visited ⊢
  split
  · next t running =>
    refine visited.keeps.trans (q.keeps_normalPace ?_ _ _)
    rw [visited.visitTimer, running]
    rfl
  · exact .refl p

/-- R143: a visit of a fast pass that does not end it. -/
theorem Wb610.keeps_fastPace (h : p.fastPass = true) {k : Nat} (hk : k ≤ 1)
    (goesOn : nextBucket p.sweepPointer ≠ p.fastStart) :
    p.Keeps u { p with sweepPointer := nextBucket p.sweepPointer, fastCount := p.fastCount + k } := by
  refine ⟨id, id, fun _ => id, id, id, id, id, ?_, id⟩
  rintro ⟨paced, counted, -⟩
  have room := counted h
  have apart : (p.sweepPointer.val + 1) % 4096 ≠ p.fastStart.val := fun e => goesOn (Fin.ext e)
  have low := p.fastStart.isLt
  have more : p.fastCount + k ≤ ((p.sweepPointer.val + 1) % 4096 + 4096 - p.fastStart.val) % 4096 := by omega
  exact ⟨paced, fun _ => more, by simp only; omega⟩

/-- R144: the visit that ends a fast pass. -/
theorem Wb610.keeps_endPace (h : p.fastPass = true) {k : Nat} (hk : k ≤ 1) (b : Fin 4096) (t : Ticks) :
    p.Keeps u { p with sweepPointer := b, fastCount := p.fastCount + k, fastPass := false, visitTimer := some t } := by
  refine ⟨id, id, fun _ => id, id, id, id, id, ?_, id⟩
  rintro ⟨-, counted, -⟩
  have room := counted h
  exact ⟨rfl, nofun, by simp only; omega⟩

theorem Wb610.keeps_fastPassVisit : p.Keeps u p.fastPassVisit := by
  have visited := p.inCycle_visited
  unfold Wb610.fastPassVisit Wb610.visit Wb610.endFastPass
  simp only
  generalize (p.compareBucket p.sweepPointer.val).convertExpired p.sweepPointer.val = q at visited ⊢
  split
  · next fast =>
    have going : q.fastPass = true := visited.fastPass.trans fast
    rw [← visited.sweepPointer]
    split
    · refine (visited.keeps.trans ?_).trans (Wb610.keeps_report _ ..)
      exact q.keeps_endPace going (Bool.toNat_le _) _ _
    · next goesOn => exact visited.keeps.trans (q.keeps_fastPace going (Bool.toNat_le _) goesOn)
  · exact .refl p

/-! ## Memory faults (R5) -/

theorem disturbEntries_key (es : List Entry) (ds : List Disturbance) :
    (disturbEntries es ds).map (·.key) = es.map (·.key) := by
  induction es generalizing ds with
  | nil => cases ds <;> rfl
  | cons e es ih =>
    cases ds with
    | nil => rfl
    | cons d ds => simp [disturbEntries, ih, Entry.disturb]

/-- A list with the keys of a sound bucket is sound. -/
theorem Bucket.sound_of_keys {b : Nat} {v : Bucket} (h : v.Sound b) {es : List Entry}
    (keys : es.map (·.key) = v.entries.map (·.key)) (code : Word16) (s : Bool) :
    ({ entries := es, code := code, suspect := s } : Bucket).Sound b := by
  obtain ⟨len, home, nodup⟩ := h
  have lengths := congrArg List.length keys
  simp only [List.length_map] at lengths
  refine ⟨lengths.trans_le len, fun e he => ?_, keys ▸ nodup⟩
  have named : e.key ∈ es.map (·.key) := List.mem_map_of_mem he
  rw [keys] at named
  obtain ⟨e', he', same⟩ := List.mem_map.mp named
  rw [← same]
  exact home e' he'

theorem Wb610.keeps_memoryFault (b : Fin 4096) (values : List Disturbance) (code : Word16) (disturbed : ¬u) :
    p.Keeps u (p.memoryFault b values code) := by
  unfold Wb610.memoryFault
  simp only
  split
  · refine p.keeps_table (fun s => ?_) fun h => absurd h disturbed
    exact p.table.sound_setBucket _ _ s b.isLt
      (Bucket.sound_of_keys (p.table.sound_bucket s b.val) (disturbEntries_key _ _) _ _)
  · exact .refl p

/-! ## Gate inputs (R167-R174) -/

theorem Wb610.keeps_tally (n : Nat) (h : n ≤ 65535) : p.Keeps u { p with tally := n } :=
  ⟨id, id, fun _ => id, id, id, id, fun ⟨lanes, _, rest⟩ => ⟨lanes, h, rest⟩, id, id⟩

theorem Wb610.keeps_assertEmergency : p.Keeps u p.assertEmergency := by
  have freed : p.Keeps u (p.eachLane Wb610.freeLane) := (p.inCycle_eachLane Wb610.inCycle_freeLane).keeps
  exact (freed.trans (Wb610.keeps_tally _ 0 (Nat.zero_le _))).trans (Wb610.keeps_report _ ..)

theorem Lane.moves_leaveFree (x : Lane) : x.Moves x.leaveFree := by
  have rested : x.Moves { x with rotor := x.rotor.rest } :=
    ⟨rfl, fun h => ⟨Rotor.rest_range x.rotor h.1.2.2.2, h.2⟩, id⟩
  unfold Lane.leaveFree
  simp only
  split
  · exact rested.trans (Lane.alike_close _ _).moves
  · split
    · exact rested.trans (Lane.alike_close _ _).moves
    · exact rested.trans (Lane.alike_enterIdle _).moves
  all_goals exact .refl x

theorem Wb610.keeps_deassertEmergency : p.Keeps u p.deassertEmergency :=
  (p.keeps_eachLane fun q l => q.keeps_modLane l (Lane.moves_leaveFree _)).trans (Wb610.keeps_report _ ..)

theorem Wb610.keeps_contact (raw emergency : Bool) (t : Timer) :
    p.Keeps u { p with rawEmergency := raw, emergency := emergency, debounce := t } :=
  ⟨id, id, fun _ => id, id, id, id, id, id, id⟩

theorem Wb610.keeps_contactChange (isOpen : Bool) : p.Keeps u (p.contactChange isOpen) := by
  unfold Wb610.contactChange
  split
  · exact .refl p
  · exact p.keeps_contact isOpen p.emergency _

theorem Wb610.keeps_debounceExpiry : p.Keeps u p.debounceExpiry := by
  have settled : p.Keeps u { p with debounce := none, emergency := p.rawEmergency } :=
    p.keeps_contact p.rawEmergency p.rawEmergency none
  unfold Wb610.debounceExpiry
  split
  · exact .refl p
  simp only
  split
  · exact settled
  split
  · exact settled.trans (Wb610.keeps_assertEmergency _)
  · exact settled.trans (Wb610.keeps_deassertEmergency _)

theorem Wb610.keeps_supplySample (sample : Fin 401) : p.Keeps u (p.supplySample sample.val) := by
  have sampled : p.Keeps u
      { p with supply := p.supply.after sample.val, lastSample := sample.val, sampleTimer := sampleTime } :=
    ⟨id, id, fun _ => id, id, id, id,
      fun ⟨lanes, tally, dropped, _, clock⟩ => ⟨lanes, tally, dropped, Nat.le_of_lt_succ sample.isLt, clock⟩, id, id⟩
  unfold Wb610.supplySample
  simp only
  split
  · exact sampled
  · exact sampled.trans (Wb610.keeps_report _ ..)

theorem Wb610.keeps_clockSecond : p.Keeps u p.clockSecond := by
  unfold Wb610.clockSecond
  split
  · exact .refl p
  · next c hc =>
    refine ⟨id, id, fun _ => id, id, id, id, ?_, id, id⟩
    rintro ⟨lanes, tally, dropped, sample, clock⟩
    have bound := clock c hc
    refine ⟨lanes, tally, dropped, sample, fun c' hc' => ?_⟩
    cases hc'
    unfold Config.clockMax
    split <;> omega

/-! ## Lane timers (R62, R64, R77, R158, R161) -/

theorem Wb610.keeps_alike {f : Lane → Lane} (h : ∀ x : Lane, x.Alike (f x)) : p.Keeps u (p.modLane l f) :=
  (p.inCycle_modLane l h).keeps

theorem Wb610.keeps_nextAge :
    p.Keeps u (p.modLane l fun x => { x with next := x.next.map fun w => { w with age := none } }) :=
  p.keeps_alike l fun _ => ⟨rfl, rfl, rfl, rfl, id, rfl, rfl⟩

theorem Wb610.keeps_repeatTimer :
    p.Keeps u (p.modLane l fun x => { x with repeatMemory := x.repeatMemory.map fun m => { m with timer := none } }) :=
  p.keeps_alike l fun _ => ⟨rfl, rfl, rfl, rfl, id, rfl, rfl⟩

theorem Wb610.keeps_testRelease : p.Keeps u (p.modLane l fun x => { x with testRelease := none }) :=
  p.keeps_alike l fun _ => ⟨rfl, rfl, rfl, rfl, id, rfl, rfl⟩

theorem Wb610.keeps_toneEnd : p.Keeps u (p.modLane l fun x => { x with signals := { x.signals with tone := none } }) :=
  p.keeps_alike l fun _ => ⟨rfl, rfl, rfl, rfl, id, rfl, rfl⟩

theorem Wb610.keeps_flashPhase :
    p.Keeps u (p.modLane l fun x =>
      { x with signals := { x.signals with flash := x.signals.flash.map FlashPhase.toggle } }) :=
  p.keeps_alike l fun _ => ⟨rfl, rfl, rfl, rfl, id, rfl, Option.isSome_map⟩

/-! ## One tick (log 1) -/

theorem tickTimer_isSome (t : Timer) : (tickTimer t).isSome = t.isSome := Option.isSome_map

theorem Lane.tick_follows {x : Lane} (h : x.OutputsFollow) : x.tick.OutputsFollow := by
  obtain ⟨lock, shown, flash⟩ := h
  refine ⟨lock.trans ?_, shown.trans ?_, Option.isSome_map.trans flash⟩
  · simp only [Lane.tick]
    cases x.state <;> simp [LaneState.tick, lockFor, tickTimer_isSome]
  · simp only [Lane.tick]
    cases x.state <;> rfl

theorem Wb610.keeps_tick : p.Keeps u p.tick where
  outputs e l := by
    rw [Wb610.lane_tick]
    exact Lane.tick_follows (e l)
  sound := id
  codes _ := id
  queues := id
  handler := id
  journal := id
  counts := by
    rintro ⟨lanes, rest⟩
    refine ⟨fun l => ?_, rest⟩
    rw [Wb610.lane_tick]
    exact lanes l
  sweep := by
    rintro ⟨paced, rest⟩
    exact ⟨(tickTimer_isSome _).trans paced, rest⟩
  poll e q hq := by
    obtain ⟨m, hm, rfl⟩ := Option.mem_map.mp hq
    rw [Wb610.lane_tick]
    exact e m hm

/-! ## Every command -/

/-- Every command keeps the invariants of every step; a memory fault alone may leave a check code that does not
agree (R5). -/
theorem Wb610.keeps_after (c : Instr) : p.Keeps (∀ b v k, c ≠ .memoryFault b v k) (p.after c) := by
  cases c with
  | powerOn a b contactOpen => exact p.keeps_powerOn a b contactOpen
  | receiverByte b lineError => exact p.keeps_receiveByte b lineError
  | gapTimeout => exact p.keeps_gapTimeout
  | silenceTimeout => exact p.inCycle_silenceTimeout.keeps
  | transmitArbiter => exact p.keeps_arbiter
  | restartResponseSent => exact p.keeps_restartResponseSent
  | unknownType => exact p.keeps_unknownType
  | ping => exact p.keeps_ping
  | statusRead blocks => exact p.keeps_statusRead blocks
  | gateConfigure => exact p.keeps_serveFixed fun q f can _ _ => q.keeps_configureGate f can
  | timeSet => exact p.keeps_serveFixed fun q f can _ _ => q.keeps_setTime f can
  | laneConfigure => exact p.keeps_serveFixed fun q f can _ _ => q.keeps_configureLane f can
  | laneOpen => exact p.keeps_serveFixed fun q f can _ _ => q.keeps_openLane f can
  | laneClose => exact p.keeps_serveFixed fun q f can _ _ => q.keeps_closeRequest f can
  | laneTestRelease => exact p.keeps_laneTest 1
  | laneTestSignal => exact p.keeps_laneTest 2
  | laneTestTone => exact p.keeps_laneTest 3
  | laneTestOffset => exact p.keeps_laneTest 4
  | tableLoad => exact p.keeps_serveList 0x20#8 16 32 fun tag todo => .load tag todo []
  | tableLoadRecord => exact p.keeps_tableLoadRecord
  | tableDelete => exact p.keeps_serveList 0x21#8 32 11 fun tag todo => .delete tag todo []
  | tableDeleteKey => exact p.keeps_tableDeleteKey
  | tableRevoke => exact p.keeps_serveList 0x22#8 32 11 fun tag todo => .revoke tag todo []
  | tableRevokeKey => exact p.keeps_tableRevokeKey
  | enteredElsewhere => exact p.keeps_useUpdate 1
  | passedOutElsewhere => exact p.keeps_useUpdate 2
  | tableReadByKey => exact p.keeps_serveFixed fun q f can _ _ => q.keeps_readByKey f can
  | tableReadByBucket => exact p.keeps_serveFixed fun q f can _ _ => q.keeps_readByBucket f can
  | bucketClear => exact p.keeps_serveFixed fun q f can _ _ => q.keeps_clearBucket f can
  | tableClear => exact p.keeps_serveFixed fun q f can _ _ => q.keeps_clearTable f can
  | verdict => exact p.keeps_serve fun q f can _ _ => q.keeps_takeVerdict f can
  | remotePresent lost => exact p.keeps_serveFixed fun q f can _ _ => q.keeps_remotePresent lost f can
  | journalRead => exact p.keeps_serveFixed fun q f can _ _ => q.keeps_readJournal f can
  | countersReadKeep => exact p.keeps_readCounters 1
  | countersReadClear => exact p.keeps_readCounters 2
  | countersReadLane => exact p.keeps_countersReadLane
  | sweepNow => exact p.keeps_serveFixed fun q f can _ _ => q.keeps_sweepNow f can
  | restart => exact p.keeps_serveFixed fun q f can _ type => q.keeps_restart f can type
  | verifyDeadlineExpiry l => exact (p.inCycle_settleWithoutHost l).keeps
  | admitWindowExpiry l lost => exact (p.inCycle_admitWindowExpiry l lost).keeps
  | passageLimitExpiry l lost => exact (p.inCycle_passageLimitExpiry l lost).keeps
  | refusalDisplayExpiry l lost => exact (p.inCycle_refusalDisplayExpiry l lost).keeps
  | nextAgeExpiry l => exact p.keeps_nextAge l
  | repeatTimerExpiry l => exact p.keeps_repeatTimer l
  | testReleaseExpiry l => exact p.keeps_testRelease l
  | rotorLineChange l a b lost => exact p.keeps_rotorLines l lost a b
  | barcodeCharacter l c framingError lost => exact p.keeps_barcodeCharacter l lost c framingError
  | pollSent => exact p.keeps_pollSent
  | busAnswer bytes lost => exact p.keeps_busBytes lost bytes
  | pollWindowExpiry => exact p.keeps_pollWindowExpiry
  | repollTimerExpiry l => exact p.keeps_repollTimerExpiry l
  | sweepVisit => exact p.keeps_sweepVisit
  | fastPassVisit => exact p.keeps_fastPassVisit
  | memoryFault b values code => exact p.keeps_memoryFault b values code fun h => h b values code rfl
  | emergencyContactChange isOpen => exact p.keeps_contactChange isOpen
  | debounceExpiry => exact p.keeps_debounceExpiry
  | supplySample sample => exact p.keeps_supplySample sample
  | clockSecond => exact p.keeps_clockSecond
  | tonePatternEnd l => exact p.keeps_toneEnd l
  | flashPhase l => exact p.keeps_flashPhase l

end

/-- What every change that keeps these invariants keeps, every step keeps. -/
theorem step_keeps_of {I : Wb610 → Prop} (h : ∀ {u : Prop} {p q : Wb610}, p.Keeps u q → I p → I q) (s t : State)
    (ht : step s = .next t) (hs : I s.part) : I t.part :=
  step_keeps (fun p => h (p.keeps_tick (u := True))) (fun p c => h (p.keeps_after c)) s t ht hs

/-- Settles O55. -/
theorem outputsFollowAlways : Obligations.OutputsFollowAlways := step_keeps_of Wb610.Keeps.outputs

/-- Settles O56. -/
theorem tableStaysSound : Obligations.TableStaysSound := by
  refine ⟨step_keeps_of (I := fun p => p.table.Sound) Wb610.Keeps.sound, fun c s t ht undisturbed agree => ?_⟩
  rw [exec_eq] at ht
  cases ht
  exact (s.part.keeps_after c).codes undisturbed agree

/-- Settles O58. -/
theorem queuesAndCountsStayBounded : Obligations.QueuesAndCountsStayBounded :=
  ⟨step_keeps_of Wb610.Keeps.queues, step_keeps_of Wb610.Keeps.handler, step_keeps_of Wb610.Keeps.journal,
    step_keeps_of Wb610.Keeps.counts, step_keeps_of Wb610.Keeps.sweep, step_keeps_of Wb610.Keeps.poll⟩

end Sys2Proof.Machine
end

