-- ==== Sys2Proof/Proofs/Holders.lean ====
section
/-! SUPPORT. Which lane holds a key, as the credential table tells it (R8, R10): how each write of the table changes it. -/

namespace Sys2Proof.Machine

/-! ## The holder of a key -/

/-- R10: the lane that a list of entries says holds a key. -/
def holderIn (es : List Entry) (k : Key) : Option LaneNo :=
  (es.find? fun e => decide (e.key = k)).bind Entry.holdLane

/-- R2, R10: the lane that the table says holds a key. -/
def Table.holder (t : Table) (k : Key) : Option LaneNo := (t.find k).bind Entry.holdLane

section
variable {es : List Entry} {k : Key} {e : Entry}

/-- The entry a list finds for a key. -/
theorem key_of_find? (h : es.find? (fun e => decide (e.key = k)) = some e) : e.key = k :=
  of_decide_eq_true (List.find?_some h :)

theorem holderIn_of_find (h : es.find? (fun e => decide (e.key = k)) = some e) : holderIn es k = e.holdLane := by
  rw [holderIn, h]
  rfl

theorem holderIn_of_absent (h : es.find? (fun e => decide (e.key = k)) = none) : holderIn es k = none := by
  rw [holderIn, h]
  rfl

/-- Keys kept and holds kept, the holder is kept. -/
theorem holderIn_map {f : Entry → Entry} (key : ∀ e, (f e).key = e.key)
    (hold : ∀ e, es.find? (fun e => decide (e.key = k)) = some e → (f e).holdLane = e.holdLane) :
    holderIn (es.map f) k = holderIn es k := by
  rw [holderIn, find?_key_map es k key, holderIn]
  cases h : es.find? fun e => decide (e.key = k) with
  | none => rfl
  | some e => exact hold e h

theorem holderIn_append_same (absent : es.find? (fun x => decide (x.key = e.key)) = none) :
    holderIn (es ++ [e]) e.key = e.holdLane := by
  rw [holderIn, List.find?_append, absent]
  simp

theorem holderIn_append_ne (h : e.key ≠ k) : holderIn (es ++ [e]) k = holderIn es k := by
  simp [holderIn, List.find?_append, h]

theorem holderIn_filter_same : holderIn (es.filter fun e => !decide (e.key = k)) k = none := by
  refine holderIn_of_absent (List.find?_eq_none.mpr fun e he => ?_)
  have kept := (List.mem_filter.mp he).2
  simpa using kept

theorem holderIn_filter_ne {k' : Key} (h : k' ≠ k) :
    holderIn (es.filter fun e => !decide (e.key = k)) k' = holderIn es k' := by
  rw [holderIn, List.find?_filter, holderIn]
  congr 2
  funext e
  by_cases at_k' : e.key = k' <;> simp [at_k', h]

/-- What a list of entries says of holds: each key with the lane that holds it. -/
def Entry.tag (e : Entry) : Key × Option LaneNo := (e.key, e.holdLane)

/-- The holder of a key follows from the tags. -/
theorem holderIn_eq_tags (es : List Entry) (k : Key) :
    holderIn es k = ((es.map Entry.tag).find? fun r => decide (r.1 = k)).bind (·.2) := by
  rw [List.find?_map, holderIn, Option.bind_map]
  rfl

theorem holderIn_of_tags {es' : List Entry} (h : es'.map Entry.tag = es.map Entry.tag) : holderIn es' k = holderIn es k := by
  rw [holderIn_eq_tags, h, holderIn_eq_tags]

end

section
variable {t u : Table} {k : Key}

theorem Table.holder_eq (t : Table) (k : Key) : t.holder k = holderIn (t.bucket (bucketOf k)).entries k := rfl

theorem Table.holder_of_find {e : Entry} (h : t.find k = some e) : t.holder k = e.holdLane := by
  rw [Table.holder, h]
  rfl

theorem Table.find_of_holder {l : LaneNo} (h : t.holder k = some l) :
    ∃ e hold, t.find k = some e ∧ e.state.hold = some hold ∧ hold.lane = l := by
  obtain ⟨e, found, held⟩ := Option.bind_eq_some_iff.mp h
  obtain ⟨hold, state, lane⟩ := Option.map_eq_some_iff.mp held
  exact ⟨e, hold, found, state, lane⟩

/-- A bucket written, the keys of it keep their holders where the new list keeps them. -/
theorem Table.holder_setBucket (wf : bucketsWf t.buckets = true) {b : Nat} {v : Bucket}
    (h : bucketOf k = b → holderIn v.entries k = holderIn (t.bucket b).entries k) :
    (t.setBucket b v).holder k = t.holder k := by
  rw [Table.holder_eq, Table.holder_eq]
  by_cases at_b : bucketOf k = b
  · rw [at_b, t.bucket_setBucket_same b v wf]
    exact h at_b
  · rw [t.bucket_setBucket_ne b _ v at_b]

theorem Table.holder_modify_ne (wf : bucketsWf t.buckets = true) {g : Entry → Entry} (hg : ∀ e, (g e).key = e.key)
    {k' : Key} (h : k' ≠ k) : (t.modify k g).holder k' = t.holder k' := by
  rw [Table.holder, t.find_modify_ne k g wf hg h, Table.holder]

theorem Table.holder_modify_same (wf : bucketsWf t.buckets = true) {g : Entry → Entry} (hg : ∀ e, (g e).key = e.key) :
    (t.modify k g).holder k = (t.find k).bind fun e => (g e).holdLane := by
  rw [Table.holder, t.find_modify_same k g wf hg, Option.bind_map]
  rfl

/-- R10: no edit of the host's changes a holder. -/
theorem Table.HostEdit.holder (h : t.HostEdit u) (s : t.Sound) (k : Key) : u.holder k = t.holder k := by
  have wf := s.1
  cases h with
  | same => rfl
  | modify k₀ g key hold =>
    by_cases at_k : k = k₀
    · subst at_k
      rw [Table.holder_modify_same wf key, Table.holder]
      cases found : t.find k with
      | none => rfl
      | some e => exact hold e found
    · exact Table.holder_modify_ne wf key at_k
  | replace new old found free new_free =>
    refine Table.holder_setBucket wf fun _ => holderIn_map (fun e => ?_) fun e he => ?_
    · split
      · next same => exact same.symm
      · rfl
    · split
      · next same =>
        have at_k : k = new.key := (key_of_find? he).symm.trans same
        rw [at_k] at he
        have is_old : some e = some old := he.symm.trans found
        cases is_old
        rw [new_free, free]
      · rfl
  | append e absent room free =>
    refine Table.holder_setBucket wf fun _ => ?_
    by_cases at_k : e.key = k
    · subst at_k
      exact (holderIn_append_same absent).trans (free.trans (holderIn_of_absent absent).symm)
    · exact holderIn_append_ne at_k
  | remove k₀ e found free =>
    refine Table.holder_setBucket wf fun _ => ?_
    by_cases at_k : k = k₀
    · subst at_k
      exact holderIn_filter_same.trans (free.symm.trans (holderIn_of_find found).symm)
    · exact holderIn_filter_ne at_k
  | clear b low free =>
    refine Table.holder_setBucket wf fun _ => ?_
    cases found : (t.bucket b).entries.find? fun e => decide (e.key = k) with
    | none => exact (holderIn_of_absent found).symm
    | some e => exact ((holderIn_of_find found).trans (free e (List.mem_of_find?_eq_some found))).symm

end

end Sys2Proof.Machine
end

