-- ==== Sys2Proof/Proofs/Fits.lean ====
section
/-! SUPPORT. The invariants of lanes, holds, messages, emergency and service as one predicate that an act at a lane keeps
although the lane is between two states: every lane but those away fits, and holds and messages match throughout. -/

namespace Sys2Proof.Machine

/-! ## What is asked of the part -/

/-- Which of the invariants are asked beside the shape of the lanes. -/
structure Terms where
  messages : Prop
  holds : Prop
  emergency : Prop
  service : Prop

/-- R10, R54, R121: the hold reference and the flags that a lane's state calls for. -/
def Lane.HoldShaped (x : Lane) : Prop :=
  (∀ k ∈ x.hold, x.current.map (·.key) = some k)
    ∧ x.hold.isSome = (x.state.admitted || x.slot.any fun q => decide (q.cause = .flagged))
    ∧ ((x.verified || x.offlineAdmit) = true → x.state.admitted = true)
    ∧ (x.verified && x.offlineAdmit) = false

/-- R10: the table says that a lane holds a key exactly where the lane's hold reference names the key. -/
def Wb610.RefsMatch (p : Wb610) : Prop := ∀ k l, p.table.holder k = some l ↔ (p.lane l).hold = some k

/-- R73, R174: the clock set and the supply known. -/
def Wb610.Serviceable (p : Wb610) : Prop := p.clock.isSome = true ∧ p.supply ≠ .unknown

/-- A lane's record meets what is asked of it. -/
structure Lane.Fits (T : Terms) (p : Wb610) (l : LaneNo) (x : Lane) : Prop where
  shaped : x.Shaped l
  held : T.holds → x.HoldShaped
  free : T.emergency → x.state.isFree = p.emergency
  ready : T.service → x.state.inService = true → p.Serviceable

/-- Every lane but those away meets what is asked, and so does what the lanes share. -/
structure Wb610.Fit (T : Terms) (away : Set LaneNo) (p : Wb610) : Prop where
  lanes : ∀ m, m ∉ away → (p.lane m).Fits T p m
  messages : T.messages → p.MessagesMatch
  sound : T.holds → p.table.Sound
  refs : T.holds → p.RefsMatch
  debounced : T.emergency → p.debounce.isSome = (p.rawEmergency != p.emergency)

/-- The gate lets a lane be open: no emergency, the clock set and the supply known. -/
def Wb610.Calm (T : Terms) (p : Wb610) : Prop := (T.emergency → p.emergency = false) ∧ (T.service → p.Serviceable)

/-! ## Carrying it over -/

section
variable {T : Terms} {away : Set LaneNo} {p q : Wb610} {l : LaneNo} {x y : Lane}

theorem Wb610.Fit.mono {away' : Set LaneNo} (h : p.Fit T away) (sub : away ⊆ away') : p.Fit T away' :=
  ⟨fun m hm => h.lanes m fun at_m => hm (sub at_m), h.messages, h.sound, h.refs, h.debounced⟩

theorem Wb610.Fit.putAway (h : p.Fit T away) (l : LaneNo) : p.Fit T (insert l away) := h.mono (Set.subset_insert l away)

/-- What the invariants read of the part. -/
def Wb610.standing (p : Wb610) :=
  (p.lanes, p.verifyQueue, p.table, p.clock.isSome, p.supply, p.rawEmergency, p.emergency, p.debounce.isSome)

theorem Wb610.Fit.of_standing (h : p.Fit T away) (same : q.standing = p.standing) : q.Fit T away := by
  simp only [Wb610.standing, Prod.mk.injEq] at same
  obtain ⟨lanes, queue, table, clock, supply, raw, emergency, debounce⟩ := same
  have lane (m : LaneNo) : q.lane m = p.lane m := Wb610.lane_of_lanes m lanes
  constructor
  · intro m hm
    obtain ⟨shaped, held, free, ready⟩ := h.lanes m hm
    rw [lane]
    refine ⟨shaped, held, fun e => ?_, fun e s => ?_⟩
    · rw [emergency]; exact free e
    · rw [Wb610.Serviceable, clock, supply]; exact ready e s
  · intro e
    rw [Wb610.MessagesMatch, queue]
    simp only [lane]
    exact h.messages e
  · rw [table]; exact h.sound
  · intro e k m
    rw [table, lane]
    exact h.refs e k m
  · rw [debounce, raw, emergency]; exact h.debounced

theorem Wb610.Calm.of_standing (h : p.Calm T) (same : q.standing = p.standing) : q.Calm T := by
  simp only [Wb610.standing, Prod.mk.injEq] at same
  obtain ⟨-, -, -, clock, supply, -, emergency, -⟩ := same
  rw [Wb610.Calm, Wb610.Serviceable, clock, supply, emergency]
  exact h

@[simp] theorem Wb610.placeReport_standing (p : Wb610) (r : Report) : (p.placeReport r).standing = p.standing := by
  unfold Wb610.placeReport
  split <;> rfl

@[simp] theorem Wb610.report_standing (p : Wb610) (k : ReportKind) (o : Option LaneNo) (a b : Nat) (c : ReportKey) :
    (p.report k o a b c).standing = p.standing := p.placeReport_standing _

theorem Wb610.Fit.report (h : p.Fit T away) (k : ReportKind) (o : Option LaneNo) (a b : Nat) (c : ReportKey) :
    (p.report k o a b c).Fit T away := h.of_standing (p.report_standing k o a b c)

/-! ## Messages (R124) -/

/-- Messages taken out of the queue leave the others matched, and so does a change that keeps the queries asked. -/
theorem Wb610.MessagesMatch.of_sublist (h : p.MessagesMatch) (sub : q.verifyQueue.Sublist p.verifyQueue)
    (slots : ∀ m ∈ q.verifyQueue, (q.lane m.lane).slot = (p.lane m.lane).slot) : q.MessagesMatch := by
  obtain ⟨nodup, asked⟩ := h
  refine ⟨nodup.sublist (sub.map _), fun m hm => ?_⟩
  rw [slots m hm]
  exact asked m (sub.subset hm)

/-- R124: no message waits for a lane without a query. -/
theorem Wb610.MessagesMatch.none_of_no_slot (h : p.MessagesMatch) (slot : (p.lane l).slot = none) :
    ∀ m ∈ p.verifyQueue, m.lane ≠ l := by
  rintro m hm rfl
  obtain ⟨q, hq, -⟩ := h.2 m hm
  rw [slot] at hq
  simp at hq

/-- R123: the message of a query opened in a lane that had none joins the queue. -/
theorem Wb610.MessagesMatch.append (h : p.MessagesMatch) (m : VerifyMessage) (others : ∀ n ∈ p.verifyQueue, n.lane ≠ m.lane)
    {q : Query} (asked : (p.lane m.lane).slot = some q)
    (same : m.tag = q.tag ∧ m.key = q.key ∧ m.purpose = q.purpose ∧ m.cause = q.cause) :
    ({ p with verifyQueue := p.verifyQueue ++ [m] } : Wb610).MessagesMatch := by
  obtain ⟨nodup, waiting⟩ := h
  constructor
  · rw [List.map_append, List.nodup_append]
    refine ⟨nodup, List.nodup_singleton _, ?_⟩
    rintro a ha b hb rfl
    obtain ⟨n, hn, rfl⟩ := List.mem_map.mp ha
    exact others n hn (List.mem_singleton.mp hb)
  · intro n hn
    rcases List.mem_append.mp hn with hn | hn
    · exact waiting n hn
    · rw [List.mem_singleton.mp hn]
      refine ⟨q, ?_, same⟩
      rw [show ({ p with verifyQueue := p.verifyQueue ++ [m] } : Wb610).lane m.lane = p.lane m.lane from rfl, asked]
      simp

/-- Some of the waiting messages gone. -/
theorem Wb610.Fit.fewer (h : p.Fit T away) {v : List VerifyMessage} (sub : v.Sublist p.verifyQueue) :
    ({ p with verifyQueue := v } : Wb610).Fit T away where
  lanes m hm := by
    obtain ⟨shaped, held, free, ready⟩ := h.lanes m hm
    exact ⟨shaped, held, free, ready⟩
  messages e := (h.messages e).of_sublist sub fun _ _ => rfl
  sound := h.sound
  refs := h.refs
  debounced := h.debounced

/-! ## A lane written -/

theorem Lane.Fits.setLane (h : y.Fits T p l) : y.sync.Fits T (p.setLane l x) l := ⟨h.shaped, h.held, h.free, h.ready⟩

/-- A lane written that then fits, its hold reference as it was, and its query while a message waits for it. -/
theorem Wb610.Fit.setLane (h : p.Fit T (insert l away)) (fits : l ∉ away → y.Fits T p l)
    (hold : T.holds → y.hold = (p.lane l).hold)
    (slot : T.messages → ∀ m ∈ p.verifyQueue, m.lane = l → y.slot = (p.lane l).slot) : (p.setLane l y).Fit T away where
  lanes m hm := by
    by_cases e : m = l
    · subst e
      rw [Wb610.lane_setLane_same]
      exact (fits hm).setLane
    · obtain ⟨shaped, held, free, ready⟩ := h.lanes m (by simp [e, hm])
      rw [p.lane_setLane_ne l m _ e]
      exact ⟨shaped, held, free, ready⟩
  messages e := by
    refine (h.messages e).of_sublist (List.Sublist.refl _) fun m hm => ?_
    by_cases at_l : m.lane = l
    · rw [at_l, Wb610.lane_setLane_same, Lane.sync_slot, slot e m hm at_l]
    · rw [p.lane_setLane_ne l _ _ at_l]
  sound := h.sound
  refs e k m := by
    by_cases at_l : m = l
    · subst at_l
      rw [Wb610.lane_setLane_same, Lane.sync_hold, hold e]
      exact h.refs e k m
    · rw [p.lane_setLane_ne l m _ at_l]
      exact h.refs e k m
  debounced := h.debounced

/-- What the invariants read of a lane. -/
def Lane.standing (x : Lane) :=
  (x.state, x.closePending, x.hold, x.verified, x.offlineAdmit, x.current, x.next, x.repeatMemory, x.testRelease,
    x.slot, x.queryCounter)

theorem Lane.Fits.of_standing (h : x.Fits T p l) (same : y.standing = x.standing) : y.Fits T p l := by
  simp only [Lane.standing, Prod.mk.injEq] at same
  obtain ⟨state, closing, hold, verified, offline, current, next, memory, test, slot, counter⟩ := same
  refine ⟨?_, fun e => ?_, ?_, ?_⟩
  · rw [Lane.Shaped, state, closing, current, next, memory, test, slot, counter]
    exact h.shaped
  · rw [Lane.HoldShaped, state, hold, verified, offline, current, slot]
    exact h.held e
  · rw [state]; exact h.free
  · rw [state]; exact h.ready

/-- A lane changed in nothing the invariants read. -/
theorem Wb610.Fit.setLane_same (h : p.Fit T away) (same : y.standing = (p.lane l).standing) : (p.setLane l y).Fit T away := by
  have fields := same
  simp only [Lane.standing, Prod.mk.injEq] at fields
  obtain ⟨-, -, hold, -, -, -, -, -, -, slot, -⟩ := fields
  exact (h.putAway l).setLane (fun hm => (h.lanes l hm).of_standing same) (fun _ => hold) fun _ _ _ _ => slot

theorem Wb610.Fit.modLane_same (h : p.Fit T away) {f : Lane → Lane} (same : ∀ x, (f x).standing = x.standing) :
    (p.modLane l f).Fit T away := h.setLane_same (same _)

@[simp] theorem Lane.requestTone_standing (t : Tone) (x : Lane) : (x.requestTone t).standing = x.standing := by
  rw [x.requestTone_eq t]
  rfl

/-- A lane changed in the same state, its hold and its query untouched, that still fits. -/
theorem Wb610.Fit.modLane_fits (h : p.Fit T away) {f : Lane → Lane}
    (fits : (p.lane l).Fits T p l → (f (p.lane l)).Fits T p l) (hold : (f (p.lane l)).hold = (p.lane l).hold)
    (slot : (f (p.lane l)).slot = (p.lane l).slot) : (p.modLane l f).Fit T away :=
  (h.putAway l).setLane (fun hm => fits (h.lanes l hm)) (fun _ => hold) fun _ _ _ _ => slot

/-! ## The table written -/

/-- R10: the table written with every holder kept. -/
theorem Wb610.Fit.table (h : p.Fit T away) {t : Table} (sound : p.table.Sound → t.Sound)
    (holder : p.table.Sound → ∀ k, t.holder k = p.table.holder k) : ({ p with table := t } : Wb610).Fit T away where
  lanes m hm := by
    obtain ⟨shaped, held, free, ready⟩ := h.lanes m hm
    exact ⟨shaped, held, free, ready⟩
  messages := h.messages
  sound e := sound (h.sound e)
  refs e k m := by
    rw [show ({ p with table := t } : Wb610).table.holder k = p.table.holder k from holder (h.sound e) k]
    exact h.refs e k m
  debounced := h.debounced

theorem Wb610.Fit.hostEdit (h : p.Fit T away) {t : Table} (edit : p.table.HostEdit t) :
    ({ p with table := t } : Wb610).Fit T away := h.table edit.sound edit.holder

/-! ## A lane that is open -/

theorem Lane.Fits.calm (h : x.Fits T p l) (open_ : x.state.isOpen = true) : p.Calm T := by
  refine ⟨fun e => ?_, fun e => h.ready e ?_⟩
  · rw [← h.free e]
    cases hs : x.state <;> simp [hs, LaneState.isOpen] at open_ <;> rfl
  · cases hs : x.state <;> simp [hs, LaneState.isOpen] at open_ <;> rfl

/-- A lane in an open state fits a calm gate when its shape and its hold do. -/
theorem Lane.fits_of_open (calm : p.Calm T) (open_ : x.state.isOpen = true) (shaped : x.Shaped l)
    (held : T.holds → x.HoldShaped) : x.Fits T p l := by
  refine ⟨shaped, held, fun e => ?_, fun e _ => calm.2 e⟩
  rw [calm.1 e]
  cases hs : x.state <;> simp [hs, LaneState.isOpen] at open_ <;> rfl

end

end Sys2Proof.Machine
end

