-- ==== Sys2Proof/Proofs/FitsCycle.lean ====
section
/-! SUPPORT. The acts of the admission cycle keep the lanes shaped, the holds and the messages matched: a lane between two
states decides a presentation, or gives it up, and then fits again (Chapters 2, 3 and 6). -/

namespace Sys2Proof.Machine

/-! ## A lane between two states -/

/-- A lane between two states: it has no query and a known hold; all else fits. -/
structure Wb610.Between (T : Terms) (away : Set LaneNo) (p : Wb610) (l : LaneNo) (hold : Option Key) : Prop where
  rest : p.Fit T (insert l away)
  slot : (p.lane l).slot = none
  named : T.holds → (p.lane l).hold = hold
  flags : T.holds → hold = none → (p.lane l).verified = false ∧ (p.lane l).offlineAdmit = false

/-- A lane that decides the presentation `q` in CURRENT, with a hold on its key or without. -/
structure Wb610.Decides (T : Terms) (away : Set LaneNo) (p : Wb610) (l : LaneNo) (q : Presentation) (held : Bool) :
    Prop where
  between : p.Between T away l (if held then some q.key else none)
  current : (p.lane l).current = some q
  closing : (p.lane l).closePending = none
  testing : (p.lane l).testRelease = none
  plain : T.holds → (p.lane l).verified = false ∧ (p.lane l).offlineAdmit = false
  calm : p.Calm T

/-- What the end of a query or of a hold leaves of a lane as it stands. -/
def Lane.course (x : Lane) :=
  (x.state, x.closePending, x.current, x.next, x.repeatMemory, x.testRelease, x.queryCounter)

section
variable {T : Terms} {away : Set LaneNo} {p : Wb610} {l : LaneNo} {q : Presentation} {held : Bool} {hold : Option Key}

theorem Wb610.Between.of_standing {r : Wb610} (b : p.Between T away l hold) (same : r.standing = p.standing) :
    r.Between T away l hold := by
  have lane : r.lane l = p.lane l := Wb610.lane_of_lanes l (congrArg Prod.fst same)
  refine ⟨b.rest.of_standing same, ?_, ?_, ?_⟩ <;> rw [lane]
  exacts [b.slot, b.named, b.flags]

theorem Wb610.Between.report (b : p.Between T away l hold) (k : ReportKind) (o : Option LaneNo) (m n : Nat)
    (c : ReportKey) : (p.report k o m n c).Between T away l hold := b.of_standing (p.report_standing k o m n c)

/-- A lane between two states written again. -/
theorem Wb610.Between.setLane {y : Lane} (b : p.Between T away l hold) (slot : y.slot = none)
    (kept : y.hold = (p.lane l).hold)
    (flags : T.holds → hold = none → y.verified = false ∧ y.offlineAdmit = false) :
    (p.setLane l y).Between T away l hold := by
  refine ⟨(b.rest.putAway l).setLane (fun hm => absurd (Set.mem_insert l away) hm) (fun _ => kept)
    (fun _ _ _ _ => slot.trans b.slot.symm), ?_, fun e => ?_, fun e n => ?_⟩
  · rw [Wb610.lane_setLane_same]; exact slot
  · rw [Wb610.lane_setLane_same]; exact kept.trans (b.named e)
  · rw [Wb610.lane_setLane_same]; exact flags e n

/-! ## Into the states (R54-R58) -/

/-- R55, R74: a lane without query and hold fits once CLOSED. -/
theorem Lane.fits_close {x : Lane} (slot : x.slot = none) (unheld : T.holds → x.hold = none)
    (calm : T.emergency → p.emergency = false) (cause : ClosedCause) : (x.close cause).Fits T p l := by
  refine ⟨?_, fun e => ?_, fun e => (calm e).symm, fun _ s => absurd s nofun⟩
  · simp [Lane.close, Lane.Shaped, slot, LaneState.occupied, LaneState.isVerifying]
  · simp [Lane.close, Lane.HoldShaped, slot, unheld e, LaneState.admitted]

/-- R69: a lane without query and hold fits once IDLE with nothing to take up. -/
theorem Lane.fits_enterIdle {x : Lane} (slot : x.slot = none) (unheld : T.holds → x.hold = none)
    (plain : T.holds → x.verified = false ∧ x.offlineAdmit = false) (closing : x.closePending = none)
    (testing : x.testRelease = none) (calm : p.Calm T) : x.enterIdle.Fits T p l := by
  refine Lane.fits_of_open calm rfl ?_ fun e => ?_
  · simp [Lane.enterIdle, Lane.Shaped, slot, closing, testing, LaneState.occupied, LaneState.isVerifying, LaneState.isOpen]
  · simp [Lane.enterIdle, Lane.HoldShaped, slot, unheld e, plain e, LaneState.admitted]

/-- R55, R74: a lane between two states with no hold closes. -/
theorem Wb610.Between.close (b : p.Between T away l none) (calm : T.emergency → p.emergency = false)
    (cause : ClosedCause) : (p.modLane l (Lane.close cause)).Fit T away :=
  b.rest.setLane (fun _ => Lane.fits_close b.slot b.named calm cause) (fun _ => rfl) fun _ _ _ _ => rfl

/-- R69: a lane between two states with no hold goes back to IDLE with nothing to take up. -/
theorem Wb610.Between.enterIdle (b : p.Between T away l none) (closing : (p.lane l).closePending = none)
    (testing : (p.lane l).testRelease = none) (calm : p.Calm T) : (p.modLane l Lane.enterIdle).Fit T away :=
  b.rest.setLane (fun _ => Lane.fits_enterIdle b.slot b.named (fun e => b.flags e rfl) closing testing calm) (fun _ => rfl)
    fun _ _ _ _ => rfl

/-- R49, R57: the lane refuses. -/
theorem Wb610.Decides.refuse (d : p.Decides T away l q false) (r : Reason) : (p.refuse l r).Fit T away := by
  refine Wb610.Fit.report ?_ ..
  have slot := d.between.slot
  refine d.between.rest.setLane (fun _ => ?_) ?_ ?_
  · rw [Lane.refuse_eq _ d.current]
    refine Lane.fits_of_open d.calm rfl ?_ fun e => ?_
    · simp [Lane.afterRefusal, Lane.Shaped, d.current, slot, d.closing, d.testing, LaneState.occupied,
        LaneState.isVerifying, LaneState.isOpen]
    · have hold : (p.lane l).hold = none := d.between.named e
      simp [Lane.afterRefusal, Lane.HoldShaped, slot, hold, d.plain e, LaneState.admitted]
  · rw [Lane.refuse_eq _ d.current]
    exact fun _ => rfl
  · rw [Lane.refuse_eq _ d.current]
    exact fun _ _ _ _ => rfl

/-- R47, R57: the lane admits the holder. -/
theorem Wb610.Decides.admitHolder (d : p.Decides T away l q true) {v o : Bool} (once : (v && o) = false) :
    (p.admitHolder l v o).Fit T away := by
  have slot := d.between.slot
  refine d.between.rest.setLane (fun _ => ?_) ?_ ?_
  · rw [Lane.admitHolder_eq _ _ _ d.current]
    refine Lane.fits_of_open d.calm rfl ?_ fun e => ?_
    · simp [Lane.afterAdmission, Lane.Shaped, d.current, slot, d.closing, d.testing, LaneState.occupied,
        LaneState.isVerifying, LaneState.isOpen]
    · have hold : (p.lane l).hold = some q.key := d.between.named e
      simp [Lane.afterAdmission, Lane.HoldShaped, d.current, hold, LaneState.admitted, once]
  · rw [Lane.admitHolder_eq _ _ _ d.current]
    exact fun _ => rfl
  · rw [Lane.admitHolder_eq _ _ _ d.current]
    exact fun _ _ _ _ => rfl

/-! ## Queries and holds ended (R26, R124) -/

theorem Wb610.dropQuery_lane_eq (p : Wb610) (l : LaneNo) :
    (p.dropQuery l).lane l = p.lane l ∧ (p.lane l).slot = none
      ∨ (p.dropQuery l).lane l = ({ p.lane l with slot := none } : Lane).sync := by
  unfold Wb610.dropQuery
  split
  · next none_asked => exact .inl ⟨rfl, none_asked⟩
  · exact .inr (Wb610.lane_modLane_same _ l _)

@[simp] theorem Wb610.dropQuery_slot (p : Wb610) (l : LaneNo) : ((p.dropQuery l).lane l).slot = none := by
  rcases p.dropQuery_lane_eq l with ⟨e, none_asked⟩ | e
  · rw [e]; exact none_asked
  · rw [e]; rfl

@[simp] theorem Wb610.dropQuery_hold (p : Wb610) (l : LaneNo) : ((p.dropQuery l).lane l).hold = (p.lane l).hold := by
  rcases p.dropQuery_lane_eq l with ⟨e, -⟩ | e <;> rw [e]
  rfl

@[simp] theorem Wb610.dropQuery_verified (p : Wb610) (l : LaneNo) :
    ((p.dropQuery l).lane l).verified = (p.lane l).verified := by
  rcases p.dropQuery_lane_eq l with ⟨e, -⟩ | e <;> rw [e]
  rfl

@[simp] theorem Wb610.dropQuery_offlineAdmit (p : Wb610) (l : LaneNo) :
    ((p.dropQuery l).lane l).offlineAdmit = (p.lane l).offlineAdmit := by
  rcases p.dropQuery_lane_eq l with ⟨e, -⟩ | e <;> rw [e]
  rfl

theorem Wb610.dropQuery_course (p : Wb610) (l : LaneNo) : ((p.dropQuery l).lane l).course = (p.lane l).course := by
  rcases p.dropQuery_lane_eq l with ⟨e, -⟩ | e <;> rw [e]
  rfl

/-- R124: what waits after a query has been cancelled is not its message. -/
theorem Wb610.Fit.dropQuery (h : p.Fit T away) (l : LaneNo) : (p.dropQuery l).Fit T (insert l away) := by
  unfold Wb610.dropQuery
  split
  · exact h.putAway l
  next q hq =>
  refine (((h.fewer List.filter_sublist).putAway l).putAway l).setLane (fun hm => absurd (Set.mem_insert l away) hm)
    (fun _ => rfl) fun e m hm at_l => ?_
  obtain ⟨waits, apart⟩ := List.mem_filter.mp hm
  obtain ⟨q', hq', tag, -⟩ := (h.messages e).2 m waits
  rw [at_l, hq] at hq'
  have same : q' = q := by simpa using hq'
  simp [tag, same] at apart

/-- A lane that fits is between two states once its query is cancelled. -/
theorem Wb610.Fit.unasked (h : p.Fit T away) (hl : l ∉ away) : (p.dropQuery l).Between T away l (p.lane l).hold := by
  refine ⟨h.dropQuery l, p.dropQuery_slot l, fun _ => p.dropQuery_hold l, fun e none_held => ?_⟩
  obtain ⟨-, set, admitted, -⟩ := (h.lanes l hl).held e
  rw [none_held] at set
  rw [p.dropQuery_verified, p.dropQuery_offlineAdmit]
  have not_admitted : (p.lane l).state.admitted = false := by
    cases ha : (p.lane l).state.admitted
    · rfl
    · simp [ha] at set
  have no_flag : ((p.lane l).verified || (p.lane l).offlineAdmit) = false := by
    by_contra flag
    rw [Bool.not_eq_false] at flag
    rw [admitted flag] at not_admitted
    cases not_admitted
  simpa using no_flag

/-- A lane that fits and has no query is between two states as it is. -/
theorem Wb610.Fit.between (h : p.Fit T away) (hl : l ∉ away) (slot : (p.lane l).slot = none) :
    p.Between T away l (p.lane l).hold := by
  have unasked := h.unasked hl
  have same : p.dropQuery l = p := by
    unfold Wb610.dropQuery
    rw [slot]
  rw [same] at unasked
  exact unasked

theorem Wb610.releaseHold_course (p : Wb610) (l : LaneNo) : ((p.releaseHold l).lane l).course = (p.lane l).course := by
  unfold Wb610.releaseHold
  split
  · rfl
  · rw [Wb610.lane_modLane_same]
    rfl

/-- R26: the release of a hold leaves no hold. -/
theorem Entry.release_holdLane (now : Nat) (e : Entry) : (e.release now).holdLane = none := by
  unfold Entry.release Entry.holdLane
  cases hs : e.state with
  | held h =>
    simp only
    split
    · rfl
    split
    · rfl
    · cases h.prior <;> rfl
  | outside | inside | outOnPassout _ | spent | void => simp [hs, EntryState.hold]

/-- R24, R25: a commit leaves no hold. -/
theorem Entry.commit_holdLane (now seconds : Nat) (e : Entry) : (e.commit now seconds).holdLane = none := by
  unfold Entry.commit Entry.holdLane
  cases hs : e.state with
  | held h =>
    simp only
    cases h.purpose <;> cases h.revokePending <;> rfl
  | outside | inside | outOnPassout _ | spent | void => simp [hs, EntryState.hold]

/-- R10: an entry's hold ended, and with it the lane's hold reference. -/
theorem Wb610.RefsMatch.ended (refs : p.RefsMatch) (sound : p.table.Sound) {k : Key} {g : Entry → Entry}
    (key : ∀ e, (g e).key = e.key) (ends : ∀ e, (g e).holdLane = none) (hold : (p.lane l).hold = some k) {r : Wb610}
    (table : r.table = p.table.modify k g) (at_l : (r.lane l).hold = none)
    (others : ∀ m, m ≠ l → (r.lane m).hold = (p.lane m).hold) : r.RefsMatch := by
  have holder : p.table.holder k = some l := (refs k l).mpr hold
  have gone : (p.table.modify k g).holder k = none := by
    rw [Table.holder_modify_same sound.1 key]
    cases p.table.find k with
    | none => rfl
    | some e => exact ends e
  intro k' m
  rw [table]
  by_cases at_m : m = l
  · subst at_m
    rw [at_l]
    by_cases at_k : k' = k
    · rw [at_k, gone]
      simp
    · rw [Table.holder_modify_ne sound.1 key at_k, refs k' m, hold]
      simpa using fun e => at_k e.symm
  · rw [others m at_m]
    by_cases at_k : k' = k
    · rw [at_k, gone, ← refs k m, holder]
      simpa using fun e : l = m => at_m e.symm
    · rw [Table.holder_modify_ne sound.1 key at_k, refs k' m]

/-- R26: the lane's hold, if it has one, released. -/
theorem Wb610.Between.releaseHold (b : p.Between T away l hold) : (p.releaseHold l).Between T away l none := by
  unfold Wb610.releaseHold
  split
  · next none_held =>
    refine ⟨b.rest, b.slot, fun _ => none_held, fun e _ => b.flags e ?_⟩
    rw [← b.named e]
    exact none_held
  next k hk =>
  refine ⟨⟨fun m hm => ?_, fun e => ?_, fun e => ?_, fun e => ?_, b.rest.debounced⟩, ?_, fun _ => ?_, fun _ _ => ?_⟩
  · have other : m ≠ l := fun e => hm (e ▸ Set.mem_insert l away)
    obtain ⟨shaped, held, free, ready⟩ := b.rest.lanes m hm
    rw [Wb610.lane_modLane_ne _ l m _ other]
    exact ⟨shaped, held, free, ready⟩
  · refine (b.rest.messages e).of_sublist (List.Sublist.refl _) fun m _ => ?_
    by_cases at_l : m.lane = l
    · rw [at_l, Wb610.lane_modLane_same]
      rfl
    · rw [Wb610.lane_modLane_ne _ l _ _ at_l]
      rfl
  · exact p.table.sound_modify (b.rest.sound e) k _ fun x => x.release_key _
  · refine (b.rest.refs e).ended (b.rest.sound e) (fun x => x.release_key p.now) (fun x => x.release_holdLane p.now) hk
      rfl ?_ fun m other => ?_
    · rw [Wb610.lane_modLane_same]
      rfl
    · rw [Wb610.lane_modLane_ne _ l m _ other]
      rfl
  · rw [Wb610.lane_modLane_same]
    exact b.slot
  · rw [Wb610.lane_modLane_same]
    rfl
  · rw [Wb610.lane_modLane_same]
    exact ⟨rfl, rfl⟩

/-- R134, R74: a lane's query cancelled and its hold released. -/
theorem Wb610.Fit.cancel (h : p.Fit T away) (hl : l ∉ away) :
    ((p.dropQuery l).releaseHold l).Between T away l none := (h.unasked hl).releaseHold

end

end Sys2Proof.Machine
end

