-- ==== Sys2Proof/Proofs/FitsClaims.lean ====
section
/-! SUPPORT. Claims, queries and returns to IDLE keep the lanes shaped, the holds and the messages matched (R22-R26, R56,
R69, R123, R132, R133). -/

namespace Sys2Proof.Machine

/-! ## What a judgement found (R33) -/

/-- A judgement that refuses with a reason. -/
def Judgement.Refuses (j : Judgement) : Prop := ∃ r, j = .refuse r

/-- A judgement that acts on the entry it found. -/
def Judgement.ActsOnEntry (j : Judgement) : Prop :=
  j = .spendAndRefuse ∨ j = .verifyFlagged ∨ ∃ purpose offline, j = .admitHolder purpose offline

theorem judgeCandidate_cases (view : GateView) (verify : Bool) :
    (judgeCandidate view verify).Refuses ∨ (judgeCandidate view verify).ActsOnEntry := by
  unfold judgeCandidate
  split
  · exact .inr (.inr (.inr ⟨_, _, rfl⟩))
  split
  · exact .inr (.inr (.inl rfl))
  split
  · exact .inr (.inr (.inr ⟨_, _, rfl⟩))
  · exact .inl ⟨_, rfl⟩

theorem judgeEntryState_cases (view : GateView) (e : Entry) :
    (judgeEntryState view e).Refuses ∨ (judgeEntryState view e).ActsOnEntry := by
  unfold judgeEntryState
  split
  case h_5 => exact judgeCandidate_cases view e.verify
  case h_6 =>
    split
    · exact .inr (.inl rfl)
    · exact judgeCandidate_cases view e.verify
  all_goals exact .inl ⟨_, rfl⟩

theorem judgeExitState_cases (e : Entry) : (judgeExitState e).Refuses ∨ (judgeExitState e).ActsOnEntry := by
  unfold judgeExitState
  split
  case h_4 =>
    split
    · exact .inl ⟨_, rfl⟩
    · exact .inr (.inr (.inr ⟨_, _, rfl⟩))
  all_goals exact .inl ⟨_, rfl⟩

/-- R39-R46: an entry is acted on only where a hold can be taken on it. -/
theorem judgeEntry_cases (view : GateView) (c : LaneConfig) (e : Entry) :
    (judgeEntry view c e).Refuses ∨ e.state.prior.isSome = true ∧ (judgeEntry view c e).ActsOnEntry := by
  unfold judgeEntry
  split
  case h_1 | h_2 | h_3 => exact .inl ⟨_, rfl⟩
  all_goals
    next hs =>
    rw [hs]
    refine Or.imp_right (fun acts => ⟨rfl, acts⟩) ?_
    split
    · exact .inl ⟨_, rfl⟩
    split
    · split
      · exact .inl ⟨_, rfl⟩
      · exact judgeEntryState_cases view e
    · exact judgeExitState_cases e

/-- R33: a judgement refuses, asks the host without a hold, or acts on an entry that a hold can be taken on. -/
theorem judge_cases (view : GateView) (c : LaneConfig) (t : Table) (q : Presentation) :
    (judge view c t q).Refuses
      ∨ (∃ cause purpose, judge view c t q = .verifyUnheld cause purpose ∧ cause ≠ .flagged)
      ∨ ∃ e, t.find q.key = some e ∧ e.state.prior.isSome = true ∧ (judge view c t q).ActsOnEntry := by
  have unheld (cause : QueryCause) (h : cause ≠ .flagged) :
      (judgeUnheld view c.direction cause).Refuses
        ∨ ∃ cause' purpose, judgeUnheld view c.direction cause = .verifyUnheld cause' purpose ∧ cause' ≠ .flagged := by
    unfold judgeUnheld
    split
    · exact .inr ⟨_, _, rfl, h⟩
    · exact .inl ⟨_, rfl⟩
  unfold judge judgeKey
  split
  · exact .inl ⟨_, rfl⟩
  split
  · exact .inl ⟨_, rfl⟩
  split
  · exact (unheld .suspect nofun).imp_right .inl
  cases found : t.find q.key with
  | none => exact (unheld .unknown nofun).imp_right .inl
  | some e => exact (judgeEntry_cases view c e).imp_right fun ⟨prior, acts⟩ => .inr ⟨e, rfl, prior, acts⟩

section
variable {T : Terms} {away : Set LaneNo} {p : Wb610} {l : LaneNo} {q : Presentation} {held : Bool}

/-! ## Holds taken and given up (R22, R23, R26) -/

/-- R10: a key that no lane holds is taken into a hold of a lane that has none. -/
theorem Wb610.RefsMatch.begun (refs : p.RefsMatch) {k : Key} (free : p.table.holder k = none)
    (unheld : (p.lane l).hold = none) {r : Wb610} (holder : r.table.holder k = some l)
    (keys : ∀ k', k' ≠ k → r.table.holder k' = p.table.holder k') (at_l : (r.lane l).hold = some k)
    (others : ∀ m, m ≠ l → (r.lane m).hold = (p.lane m).hold) : r.RefsMatch := by
  intro k' m
  by_cases at_k : k' = k
  · subst at_k
    rw [holder]
    by_cases at_m : m = l
    · subst at_m
      simp [at_l]
    · rw [others m at_m, ← refs k' m, free]
      simpa using fun e : l = m => at_m e.symm
  · rw [keys k' at_k, refs k' m]
    by_cases at_m : m = l
    · subst at_m
      rw [unheld, at_l]
      simpa using fun e => at_k e.symm
    · rw [others m at_m]

theorem Entry.takeHold_holdLane {e : Entry} (prior : e.state.prior.isSome = true) (l : LaneNo) (purpose : Purpose) :
    (e.takeHold l purpose).holdLane = some l := by
  obtain ⟨before, h⟩ := Option.isSome_iff_exists.mp prior
  simp [Entry.takeHold, h, Entry.holdLane, EntryState.hold]

theorem Entry.holdLane_of_prior {e : Entry} (prior : e.state.prior.isSome = true) : e.holdLane = none := by
  unfold Entry.holdLane
  cases hs : e.state with
  | held h => simp [hs, EntryState.prior] at prior
  | outside | inside | outOnPassout _ | spent | void => rfl

/-- R10, R22: the hold that the lane takes on the key decided, and the table that says so. -/
theorem Wb610.Decides.hold (d : p.Decides T away l q false) {t : Table} (sound : p.table.Sound → t.Sound)
    (free : p.table.holder q.key = none) (holder : p.table.Sound → t.holder q.key = some l)
    (keys : p.table.Sound → ∀ k, k ≠ q.key → t.holder k = p.table.holder k) :
    ({ p with table := t }.modLane l fun x => { x with hold := some q.key }).Decides T away l q true := by
  have rest := d.between.rest
  have lane : ({ p with table := t }.modLane l fun x => { x with hold := some q.key }).lane l
      = ({ p.lane l with hold := some q.key } : Lane).sync := Wb610.lane_modLane_same _ l _
  have other (m : LaneNo) (h : m ≠ l) :
      ({ p with table := t }.modLane l fun x => { x with hold := some q.key }).lane m = p.lane m :=
    Wb610.lane_modLane_ne _ l m _ h
  refine ⟨⟨⟨fun m hm => ?_, fun e => ?_, fun e => sound (rest.sound e), fun e => ?_, rest.debounced⟩, ?_, ?_, nofun⟩,
    ?_, ?_, ?_, ?_, d.calm⟩
  · obtain ⟨shaped, held, free, ready⟩ := rest.lanes m hm
    rw [other m fun e => hm (e ▸ Set.mem_insert l away)]
    exact ⟨shaped, held, free, ready⟩
  · refine (rest.messages e).of_sublist (List.Sublist.refl _) fun m _ => ?_
    by_cases at_l : m.lane = l
    · rw [at_l, lane]
      rfl
    · rw [other _ at_l]
  · refine (rest.refs e).begun free (d.between.named e) (holder (rest.sound e)) (keys (rest.sound e)) ?_ fun m h => ?_
    · rw [lane]
      rfl
    · rw [other m h]
  · rw [lane]; exact d.between.slot
  · rw [lane]; exact fun _ => rfl
  · rw [lane]; exact d.current
  · rw [lane]; exact d.closing
  · rw [lane]; exact d.testing
  · rw [lane]; exact d.plain

/-- R22, R23: a hold taken on the entry of the key decided. -/
theorem Wb610.Decides.takeHold (d : p.Decides T away l q false) {e : Entry} (found : p.table.find q.key = some e)
    (prior : e.state.prior.isSome = true) (purpose : Purpose) : (p.takeHold l q.key purpose).Decides T away l q true := by
  have key (x : Entry) : (x.takeHold l purpose).key = x.key := x.takeHold_key l purpose
  refine d.hold (fun s => p.table.sound_modify s _ _ key) ?_ (fun s => ?_) fun s k h => Table.holder_modify_ne s.1 key h
  · rw [Table.holder_of_find found, Entry.holdLane_of_prior prior]
  · rw [Table.holder_modify_same s.1 key, found]
    exact Entry.takeHold_holdLane prior l purpose

theorem Wb610.Decides.releaseHold (d : p.Decides T away l q held) : (p.releaseHold l).Decides T away l q false := by
  have released := d.between.releaseHold
  have course := p.releaseHold_course l
  simp only [Lane.course, Prod.mk.injEq] at course
  obtain ⟨-, closing, current, -, -, testing, -⟩ := course
  have gate := p.inCycle_releaseHold l
  refine ⟨released, current.trans d.current, closing.trans d.closing, testing.trans d.testing,
    fun e => released.flags e rfl, ?_⟩
  rw [Wb610.Calm, Wb610.Serviceable, gate.clock, gate.supply, gate.emergency]
  exact d.calm

/-! ## Queries settled without the host (R132, R133) -/

/-- R121: a lane with a query, once the query is dropped, decides the presentation it asked about. -/
theorem Wb610.Fit.asked (h : p.Fit T away) (hl : l ∉ away) {r : Query} (hr : (p.lane l).slot = some r) :
    ∃ q, (p.lane l).current = some q ∧ r.key = q.key
      ∧ (p.dropQuery l).Decides T away l q (decide (r.cause = .flagged)) := by
  obtain ⟨shaped, held, free, ready⟩ := h.lanes l hl
  obtain ⟨occupied, -, defers, -, tests, asks, query⟩ := shaped
  have verifying : (p.lane l).state = .verifying := by
    rw [hr] at asks
    cases hs : (p.lane l).state <;> simp [hs, LaneState.isVerifying] at asks
    rfl
  rw [verifying] at occupied defers tests
  obtain ⟨q, hq⟩ := Option.isSome_iff_exists.mp occupied
  have same : r.key = q.key := by
    have asked := (query r hr).2
    rw [hq] at asked
    simpa using asked
  refine ⟨q, hq, same, ?_⟩
  have course := p.dropQuery_course l
  simp only [Lane.course, Prod.mk.injEq] at course
  obtain ⟨-, closing, current, -, -, testing, -⟩ := course
  have gate := p.inCycle_dropQuery l
  have unasked := h.unasked hl
  have plain (e : T.holds) : (p.lane l).verified = false ∧ (p.lane l).offlineAdmit = false := by
    have flags := (held e).2.2.1
    rw [verifying] at flags
    have none_set : ((p.lane l).verified || (p.lane l).offlineAdmit) = false := by
      by_contra set
      rw [Bool.not_eq_false] at set
      exact absurd (flags set) (by decide)
    simpa using none_set
  refine ⟨⟨unasked.rest, unasked.slot, fun e => ?_, fun e _ => ?_⟩, current.trans hq, closing.trans ?_, testing.trans ?_,
    fun e => ?_, ?_⟩
  · obtain ⟨named, set, -⟩ := held e
    rw [p.dropQuery_hold]
    rw [verifying, hr] at set
    by_cases flagged : r.cause = .flagged
    · have holds : (p.lane l).hold.isSome = true := by rw [set]; simp [flagged]
      obtain ⟨k, hk⟩ := Option.isSome_iff_exists.mp holds
      have at_key := named k hk
      rw [hq] at at_key
      rw [hk, decide_eq_true flagged]
      exact at_key.symm
    · have none_held : (p.lane l).hold.isSome = false := by rw [set]; simp [flagged, LaneState.admitted]
      rw [decide_eq_false flagged]
      simpa using none_held
  · rw [p.dropQuery_verified, p.dropQuery_offlineAdmit]
    exact plain e
  · by_contra set
    exact absurd (defers (Option.isSome_iff_ne_none.mpr set)) (by decide)
  · by_contra set
    exact absurd (tests (Option.isSome_iff_ne_none.mpr set)) (by decide)
  · rw [p.dropQuery_verified, p.dropQuery_offlineAdmit]
    exact plain e
  · rw [Wb610.Calm, Wb610.Serviceable, gate.clock, gate.supply, gate.emergency]
    exact (h.lanes l hl).calm (by rw [verifying]; rfl)

/-- R132: a query settled without the host. -/
theorem Wb610.Fit.settleWithoutHost (h : p.Fit T away) (hl : l ∉ away) : (p.settleWithoutHost l).Fit T away := by
  unfold Wb610.settleWithoutHost
  split
  · exact h
  next r hr =>
  obtain ⟨q, -, -, decides⟩ := h.asked hl hr
  simp only
  split
  · next cause => rw [cause] at decides; exact decides.refuse _
  · next cause => rw [cause] at decides; exact decides.refuse _
  · next cause =>
    rw [cause] at decides
    split
    · exact decides.admitHolder rfl
    · exact decides.releaseHold.refuse _

/-- R133: every query settled; the lanes away have none. -/
theorem Wb610.Fit.settleAll (h : p.Fit T away) (unasked : ∀ m ∈ away, (p.lane m).slot = none) :
    p.settleAllWithoutHost.Fit T away := by
  have folds (ls : List LaneNo) : ∀ r : Wb610, r.Fit T away → (∀ m ∈ away, (r.lane m).slot = none) →
      (ls.foldl Wb610.settleWithoutHost r).Fit T away := by
    induction ls with
    | nil => exact fun r fit _ => fit
    | cons k ks ih =>
      intro r fit none_asked
      by_cases hk : k ∈ away
      · have same : r.settleWithoutHost k = r := r.settleWithoutHost_of_none k (none_asked k hk)
        rw [List.foldl_cons, same]
        exact ih r fit none_asked
      · refine ih _ (fit.settleWithoutHost hk) fun m hm => ?_
        have other : m ≠ k := fun e => hk (e ▸ hm)
        rw [Wb610.settleWithoutHost_lane_ne r k m other]
        exact none_asked m hm
  exact (folds laneNos p h unasked).fewer (List.nil_sublist _)

/-- R185: link loss. -/
theorem Wb610.Fit.silenceTimeout (h : p.Fit T away) (unasked : ∀ m ∈ away, (p.lane m).slot = none) :
    p.silenceTimeout.Fit T away := by
  have offline : ({ p with silence := none, online := false } : Wb610).Fit T away := h.of_standing rfl
  unfold Wb610.silenceTimeout
  split
  · exact h
  simp only
  split
  · exact (offline.report .link none 2 0 .none).settleAll fun m hm => by rw [Wb610.lane_report]; exact unasked m hm
  · exact h.of_standing rfl

/-- R185: link loss leaves a lane without a query as it is. -/
theorem Wb610.lane_silenceTimeout (slot : (p.lane l).slot = none) : p.silenceTimeout.lane l = p.lane l := by
  by_cases stopped : p.silence = none
  · rw [p.silenceTimeout_of_stopped stopped]
  cases online : p.online
  · obtain ⟨t, ht⟩ := Option.ne_none_iff_exists'.mp stopped
    simp only [Wb610.silenceTimeout, ht, online]
    rfl
  · exact (p.silenceTimeout_of_online l stopped online slot).1

/-- R123: a lane that decides a presentation still decides it at the opening of its query. -/
theorem Wb610.Decides.atOpening (d : p.Decides T ∅ l q held) (lost : Bool) : (p.atOpening lost).Decides T ∅ l q held := by
  cases lost
  · exact d
  have lane : (p.atOpening true).lane l = p.lane l := Wb610.lane_silenceTimeout d.between.slot
  have gate := p.inCycle_silenceTimeout
  have fit : (p.atOpening true).Fit T (insert l ∅) := by
    refine d.between.rest.silenceTimeout fun m hm => ?_
    have at_l : m = l := by simpa using hm
    rw [at_l]
    exact d.between.slot
  have calm : (p.atOpening true).Calm T := by
    rw [Wb610.Calm, Wb610.Serviceable, Wb610.atOpening, if_pos rfl, gate.clock, gate.supply, gate.emergency]
    exact d.calm
  exact ⟨⟨fit, lane ▸ d.between.slot, lane ▸ d.between.named, lane ▸ d.between.flags⟩, lane ▸ d.current,
    lane ▸ d.closing, lane ▸ d.testing, lane ▸ d.plain, calm⟩

/-! ## Queries opened (R123) -/

/-- R123: the message of a query just opened joins the queue. -/
theorem Wb610.Fit.newMessage (h : p.Fit T away) (m : VerifyMessage) (others : T.messages → ∀ n ∈ p.verifyQueue, n.lane ≠ m.lane)
    {r : Query} (asked : (p.lane m.lane).slot = some r)
    (same : m.tag = r.tag ∧ m.key = r.key ∧ m.purpose = r.purpose ∧ m.cause = r.cause) :
    ({ p with verifyQueue := p.verifyQueue ++ [m] } : Wb610).Fit T away where
  lanes n hn := by
    obtain ⟨shaped, held, free, ready⟩ := h.lanes n hn
    exact ⟨shaped, held, free, ready⟩
  messages e := (h.messages e).append m (others e) asked same
  sound := h.sound
  refs := h.refs
  debounced := h.debounced

/-- R123: the query slot as an opening leaves it. -/
theorem Wb610.Decides.opened (d : p.Decides T away l q held) (purpose : Purpose) (cause : QueryCause)
    (flagged : T.holds → held = decide (cause = .flagged)) (counter : Fin 16) (deadline : Ticks) :
    (p.modLane l fun x =>
      { x with
        state := .verifying
        queryCounter := counter
        slot := some { tag := queryTag l counter, key := q.key, purpose, cause, deadline } }).Fit T away := by
  refine d.between.rest.setLane (fun _ => Lane.fits_of_open d.calm rfl ?_ fun e => ?_) (fun _ => rfl) fun e m hm at_l => ?_
  · simp [Lane.Shaped, d.current, d.closing, d.testing, LaneState.occupied, LaneState.isOpen, LaneState.isVerifying,
      queryTag]
  · have hold := d.between.named e
    rw [flagged e] at hold
    by_cases asks : cause = .flagged <;>
      simp [Lane.HoldShaped, hold, asks, d.current, d.plain e, LaneState.admitted]
  · exact absurd at_l ((d.between.rest.messages e).none_of_no_slot d.between.slot m hm)

theorem Wb610.Decides.openQuery (d : p.Decides T away l q held) (hl : l ∉ away) (purpose : Purpose) (cause : QueryCause)
    (flagged : T.holds → held = decide (cause = .flagged)) : (p.openQuery l q.key purpose cause).Fit T away := by
  have opened := d.opened purpose cause flagged (nextCounter (p.lane l).queryCounter) p.settings.deadlineTime
  unfold Wb610.openQuery
  simp only
  split
  · refine opened.newMessage _ (fun e => (d.between.rest.messages e).none_of_no_slot d.between.slot)
      (r :=
        { tag := queryTag l (nextCounter (p.lane l).queryCounter), key := q.key, purpose, cause
          deadline := p.settings.deadlineTime })
      ?_ ⟨rfl, rfl, rfl, rfl⟩
    rw [Wb610.lane_modLane_same]
    rfl
  · exact opened.settleWithoutHost hl

/-! ## Claims (R22, R56) -/

/-- R22: a claim on a lane that decides a presentation and holds nothing. -/
theorem Wb610.Decides.claim (d : p.Decides T ∅ l q false) (lost : Bool) : (p.claim l q lost).Fit T ∅ := by
  have home : l ∉ (∅ : Set LaneNo) := Set.notMem_empty l
  unfold Wb610.claim
  rcases judge_cases p.view (p.lane l).config p.table q with ⟨r, hj⟩ | ⟨cause, purpose, hj, unflagged⟩ |
    ⟨e, found, prior, hj | hj | ⟨purpose, offline, hj⟩⟩ <;> rw [hj]
  · exact d.refuse r
  · exact (d.atOpening lost).openQuery home purpose cause fun _ => (decide_eq_false unflagged).symm
  · have edit : p.table.HostEdit (p.table.modify q.key Entry.spend) := by
      refine .modify _ _ Entry.spend_key fun e' found' => ?_
      have same : e' = e := by rw [found] at found'; exact (Option.some.inj found').symm
      rw [same, Entry.holdLane_of_prior prior]
      rfl
    have fits := d.between.rest.hostEdit edit
    refine Wb610.Decides.refuse (q := q) ⟨⟨fits, d.between.slot, d.between.named, d.between.flags⟩, d.current, d.closing,
      d.testing, d.plain, d.calm⟩ _
  · exact ((d.takeHold found prior .entry).atOpening lost).openQuery home _ _ fun _ => rfl
  · exact (d.takeHold found prior purpose).admitHolder rfl

/-! ## Leaving a state (R55, R60, R69, R74) -/

/-- R69: the return to IDLE, or to the presentation in NEXT. -/
theorem Wb610.Between.returnToIdle (b : p.Between T ∅ l none) (closing : (p.lane l).closePending = none)
    (testing : (p.lane l).testRelease = none) (calm : p.Calm T) (lost : Bool) : (p.returnToIdle l lost).Fit T ∅ := by
  unfold Wb610.returnToIdle
  split
  · next q age _ =>
    refine Wb610.Decides.claim ⟨b.setLane (y := { (p.lane l).enterIdle with current := some q }) b.slot rfl b.flags,
      ?_, ?_, ?_, fun e => ?_, calm⟩ lost
    all_goals rw [Wb610.lane_setLane_same]
    · rfl
    · exact closing
    · exact testing
    · exact b.flags e rfl
  · exact b.enterIdle closing testing calm
  · exact b.enterIdle closing testing calm

/-- R60, R61, R71: the end of PASSING. -/
theorem Wb610.Between.leavePassing (b : p.Between T ∅ l none) (testing : (p.lane l).testRelease = none)
    (calm : p.Calm T) (lost : Bool) : (p.leavePassing l lost).Fit T ∅ := by
  unfold Wb610.leavePassing
  split
  · exact b.close calm.1 _
  · next closing => exact b.returnToIdle closing testing calm lost

theorem Wb610.cancel_course (p : Wb610) (l : LaneNo) :
    (((p.dropQuery l).releaseHold l).lane l).course = (p.lane l).course :=
  (Wb610.releaseHold_course _ l).trans (p.dropQuery_course l)

theorem Wb610.cancel_calm (p : Wb610) (l : LaneNo) (calm : p.Calm T) : ((p.dropQuery l).releaseHold l).Calm T := by
  have gate := p.inCycle_cancel l
  rw [Wb610.Calm, Wb610.Serviceable, gate.clock, gate.supply, gate.emergency]
  exact calm

/-- R74, R78: a lane that is not FREE closed at once. -/
theorem Wb610.Fit.closeLane (h : p.Fit T away) (hl : l ∉ away) (taken : (p.lane l).state.isFree = false) (cause : ClosedCause) :
    (p.closeLane l cause).Fit T away := by
  refine (h.cancel hl).close (fun e => ?_) cause
  rw [(p.inCycle_cancel l).emergency, ← (h.lanes l hl).free e]
  exact taken

end

/-! ## Arrivals (R63-R68) -/

section
variable {T : Terms} {p : Wb610} {l : LaneNo}

/-- A lane neither VERIFYING nor admitting has no query and no hold. -/
theorem Wb610.Fit.settled (h : p.Fit T ∅) (asks : (p.lane l).state.isVerifying = false)
    (admits : (p.lane l).state.admitted = false) : p.Between T ∅ l none := by
  have home : l ∉ (∅ : Set LaneNo) := Set.notMem_empty l
  have fits := h.lanes l home
  have slot : (p.lane l).slot = none := by
    have none_asked := fits.shaped.2.2.2.2.2.1
    rw [asks] at none_asked
    simpa using none_asked
  have unheld (e : T.holds) : (p.lane l).hold = none := by
    have set := (fits.held e).2.1
    rw [admits, slot] at set
    simpa using set
  have between := h.between home slot
  exact ⟨between.rest, slot, unheld, fun e _ => between.flags e (unheld e)⟩

/-- A lane that fits and is IDLE decides the presentation put into CURRENT. -/
theorem Wb610.Fit.taken (h : p.Fit T ∅) (idle : (p.lane l).state = .idle) (q : Presentation) :
    (p.modLane l fun x => { x with current := some q }).Decides T ∅ l q false := by
  have home : l ∉ (∅ : Set LaneNo) := Set.notMem_empty l
  have fits := h.lanes l home
  obtain ⟨-, -, defers, -, tests, -⟩ := fits.shaped
  rw [idle] at defers tests
  have between := h.settled (l := l) (by rw [idle]; rfl) (by rw [idle]; rfl)
  refine ⟨between.setLane (y := { p.lane l with current := some q }) between.slot rfl between.flags, ?_, ?_, ?_, fun e => ?_,
    fits.calm (by rw [idle]; rfl)⟩
  all_goals rw [Wb610.lane_modLane_same]
  · rfl
  · by_contra set
    exact absurd (defers (Option.isSome_iff_ne_none.mpr set)) (by decide)
  · by_contra set
    exact absurd (tests (Option.isSome_iff_ne_none.mpr set)) (by decide)
  · exact between.flags e rfl

/-- R66: a presentation waits behind CURRENT. -/
theorem Wb610.Fit.waits (h : p.Fit T ∅) (busy : (p.lane l).state.occupied = true) (stays : (p.lane l).closePending = none)
    (q : Presentation) : (p.modLane l (Lane.putNext p.settings q)).Fit T ∅ := by
  refine h.modLane_fits (fun fits => ?_) rfl rfl
  obtain ⟨⟨occupied, -, rest⟩, held, free, ready⟩ := fits
  exact ⟨⟨occupied, fun _ => ⟨occupied.trans busy, stays⟩, rest⟩, held, free, ready⟩

/-- R67: a presentation refused NOT_READY at a lane that is open. -/
theorem Wb610.Fit.refuseNotReady (h : p.Fit T ∅) (open_ : (p.lane l).state.isOpen = true) (k : Key) :
    (p.refuseNotReady l k).Fit T ∅ := by
  refine Wb610.Fit.report (h.modLane_fits (fun fits => ?_) rfl rfl) ..
  obtain ⟨⟨occupied, waits, defers, -, rest⟩, held, free, ready⟩ := fits
  exact ⟨⟨occupied, waits, defers, fun _ => open_, rest⟩, held, free, ready⟩

theorem Wb610.Fit.arrive (h : p.Fit T ∅) (q : Presentation) (lost : Bool) : (p.arrive l q lost).1.Fit T ∅ := by
  cases hs : (p.lane l).state with
  | closed c =>
    rw [Wb610.arrive_of_not_serving (.inl ⟨c, hs⟩)]
    exact h.modLane_same (Lane.requestTone_standing .error)
  | test c =>
    rw [Wb610.arrive_of_not_serving (.inr ⟨c, hs⟩)]
    exact h.modLane_same (Lane.requestTone_standing .error)
  | free r => rw [Wb610.arrive_of_free hs]; exact h
  | idle =>
    by_cases hr : (p.lane l).isRepeat q.key = true
    · rw [Wb610.arrive_of_repeat (by simp [hs, LaneState.isOpen]) hr]; exact h
    · rw [Wb610.arrive_of_idle hs hr]
      exact (h.taken hs q).claim lost
  | verifying | released _ | refusing _ =>
    by_cases hr : (p.lane l).isRepeat q.key = true
    · rw [Wb610.arrive_of_repeat (by simp [hs, LaneState.isOpen]) hr]; exact h
    · rw [Wb610.arrive_of_busy (by simp [hs]) hr]
      refine h.waits (by rw [hs]; rfl) ?_ q
      by_contra set
      have defers := (h.lanes l (Set.notMem_empty l)).shaped.2.2.1 (Option.isSome_iff_ne_none.mpr set)
      rw [hs] at defers
      exact absurd defers (by simp [LaneState.canDefer])
  | passing t =>
    by_cases hr : (p.lane l).isRepeat q.key = true
    · rw [Wb610.arrive_of_repeat (by simp [hs, LaneState.isOpen]) hr]; exact h
    · by_cases hc : (p.lane l).closePending = none
      · rw [Wb610.arrive_of_busy (by simp [hs, hc]) hr]
        exact h.waits (by rw [hs]; rfl) hc q
      · rw [Wb610.arrive_of_closing hs hc hr]
        exact h.refuseNotReady (by rw [hs]; rfl) q.key

end

end Sys2Proof.Machine
end

