-- ==== Sys2Proof/Proofs/FitsRotor.lean ====
section
/-! SUPPORT. The rotor decoder, encoder faults and the lane timers keep the lanes shaped, the holds and the messages matched
(Chapters 3 and 4). -/

namespace Sys2Proof.Machine

section
variable {T : Terms} {away : Set LaneNo} {p : Wb610} {l : LaneNo} {hold : Option Key}

/-! ## What an occupied lane carries -/

/-- A lane in RELEASED, PASSING or REFUSING has no query and no test release, and its gate is calm. -/
theorem Wb610.Fit.underWay (h : p.Fit T ∅) (open_ : (p.lane l).state.isOpen = true)
    (asks : (p.lane l).state.isVerifying = false) (tests : (p.lane l).state.isTest = false) :
    p.Between T ∅ l (p.lane l).hold ∧ (p.lane l).testRelease = none ∧ p.Calm T := by
  have home : l ∉ (∅ : Set LaneNo) := Set.notMem_empty l
  obtain ⟨-, -, -, -, testing, slot, -⟩ := (h.lanes l home).shaped
  refine ⟨h.between home (by simpa [asks] using slot), ?_, (h.lanes l home).calm open_⟩
  by_contra set
  rw [testing (Option.isSome_iff_ne_none.mpr set)] at tests
  cases tests

/-- The close-pending mark stands only where a state can carry it. -/
theorem Wb610.Fit.not_closing (h : p.Fit T ∅) (defers : (p.lane l).state.canDefer = false) :
    (p.lane l).closePending = none := by
  by_contra set
  rw [(h.lanes l (Set.notMem_empty l)).shaped.2.2.1 (Option.isSome_iff_ne_none.mpr set)] at defers
  cases defers

theorem Wb610.releaseHold_fields (p : Wb610) (l : LaneNo) :
    ((p.releaseHold l).lane l).testRelease = (p.lane l).testRelease
      ∧ ((p.releaseHold l).lane l).closePending = (p.lane l).closePending := by
  have course := p.releaseHold_course l
  simp only [Lane.course, Prod.mk.injEq] at course
  obtain ⟨-, closing, -, -, -, testing, -⟩ := course
  exact ⟨testing, closing⟩

theorem Wb610.releaseHold_calm (calm : p.Calm T) (l : LaneNo) : (p.releaseHold l).Calm T := by
  have gate := p.inCycle_releaseHold l
  rw [Wb610.Calm, Wb610.Serviceable, gate.clock, gate.supply, gate.emergency]
  exact calm

/-! ## Passages (R60, R61) -/

/-- R10: a hold reference names a HELD entry, so a passage complete has a hold to commit. -/
theorem Wb610.Between.commitHold (b : p.Between T away l hold) : (p.commitHold l).Between T away l none := by
  have idle (lost : T.holds → (p.lane l).hold = none) : p.Between T away l none :=
    ⟨b.rest, b.slot, lost, fun e _ => b.flags e ((b.named e).symm.trans (lost e))⟩
  have named {k : Key} (hk : (p.lane l).hold = some k) (e : T.holds) : p.table.holder k = some l :=
    (b.rest.refs e k l).mpr hk
  unfold Wb610.commitHold
  cases hk : (p.lane l).hold with
  | none => exact idle fun _ => hk
  | some k =>
  simp only
  cases found : p.table.find k with
  | none =>
    refine idle fun e => ?_
    have holder := named hk e
    rw [Table.holder, found] at holder
    cases holder
  | some x =>
  simp only
  cases state : x.state.hold with
  | none =>
    refine idle fun e => ?_
    have holder := named hk e
    rw [Table.holder, found, Option.bind_some, Entry.holdLane, state] at holder
    cases holder
  | some r =>
  refine ⟨⟨fun m hm => ?_, fun e => ?_, fun e => ?_, fun e => ?_, b.rest.debounced⟩, ?_, fun _ => ?_, fun _ _ => ?_⟩
  · have other : m ≠ l := fun e => hm (e ▸ Set.mem_insert l away)
    obtain ⟨shaped, held, free, ready⟩ := b.rest.lanes m hm
    rw [Wb610.lane_modLane_ne _ l m _ other]
    exact ⟨shaped, held, free, ready⟩
  · refine (b.rest.messages e).of_sublist (List.Sublist.refl _) fun m _ => ?_
    by_cases at_l : m.lane = l
    · rw [at_l, Wb610.lane_modLane_same]
      rfl
    · rw [Wb610.lane_modLane_ne _ l _ _ at_l]
      rfl
  · exact p.table.sound_modify (b.rest.sound e) k _ fun x => x.commit_key _ _
  · refine (b.rest.refs e).ended (b.rest.sound e) (fun x => x.commit_key p.now p.settings.passoutSeconds)
      (fun x => x.commit_holdLane p.now p.settings.passoutSeconds) hk rfl ?_ fun m other => ?_
    · rw [Wb610.lane_modLane_same]
      rfl
    · rw [Wb610.lane_modLane_ne _ l m _ other]
      rfl
  · rw [Wb610.lane_modLane_same]
    exact b.slot
  · rw [Wb610.lane_modLane_same]
    rfl
  · rw [Wb610.lane_modLane_same]
    exact ⟨rfl, rfl⟩

/-- A commit leaves the rest of the lane and the gate as they are. -/
theorem Wb610.commitHold_rest (p : Wb610) (l : LaneNo) :
    ((p.commitHold l).lane l).course = (p.lane l).course ∧ (p.commitHold l).clock = p.clock
      ∧ (p.commitHold l).supply = p.supply ∧ (p.commitHold l).emergency = p.emergency := by
  unfold Wb610.commitHold
  cases (p.lane l).hold with
  | none => exact ⟨rfl, rfl, rfl, rfl⟩
  | some k =>
  simp only
  cases p.table.find k with
  | none => exact ⟨rfl, rfl, rfl, rfl⟩
  | some x =>
  simp only
  cases x.state.hold with
  | none => exact ⟨rfl, rfl, rfl, rfl⟩
  | some r =>
    refine ⟨?_, rfl, rfl, rfl⟩
    rw [Wb610.lane_modLane_same]
    rfl

theorem Wb610.Fit.completePassage (h : p.Fit T ∅) {t : Ticks} (passing : (p.lane l).state = .passing t) (lost : Bool) :
    (p.completePassage l lost).Fit T ∅ := by
  have rested : (p.modLane l fun x => { x with rotor := x.rotor.complete }).Fit T ∅ := h.modLane_same fun _ => rfl
  have state : ((p.modLane l fun x => { x with rotor := x.rotor.complete }).lane l).state = .passing t := by
    rw [Wb610.lane_modLane_same]
    exact passing
  unfold Wb610.completePassage
  generalize (p.modLane l fun x => { x with rotor := x.rotor.complete }) = q at rested state
  obtain ⟨between, testing, calm⟩ := rested.underWay (l := l) (by rw [state]; rfl) (by rw [state]; rfl) (by rw [state]; rfl)
  obtain ⟨course, clock, supply, emergency⟩ := q.commitHold_rest l
  simp only [Lane.course, Prod.mk.injEq] at course
  obtain ⟨-, -, -, -, -, kept, -⟩ := course
  refine between.commitHold.leavePassing (kept.trans testing) ?_ lost
  rw [Wb610.Calm, Wb610.Serviceable, clock, supply, emergency]
  exact calm

/-- R59: a RELEASED lane enters PASSING. -/
theorem Wb610.Fit.enterPassing (h : p.Fit T ∅) {t : Ticks} (released : (p.lane l).state = .released t) (c : Settings) :
    (p.modLane l (Lane.enterPassing c)).Fit T ∅ := by
  refine h.modLane_fits (fun fits => ?_) rfl rfl
  have calm := fits.calm (by rw [released]; rfl)
  obtain ⟨⟨occupied, waits, -, memory, tests, asks, query⟩, held, -, -⟩ := fits
  rw [released] at occupied tests asks
  refine Lane.fits_of_open calm rfl ⟨occupied, waits, fun _ => rfl, fun _ => rfl, ?_, asks, query⟩ fun e => ?_
  · exact fun set => absurd (tests set) (by simp [LaneState.isTest])
  · obtain ⟨named, set, admitted, once⟩ := held e
    rw [released] at set
    exact ⟨named, set, fun _ => rfl, once⟩

/-- A lane between two states changed in nothing the invariants read. -/
theorem Wb610.Between.modLane_same (b : p.Between T away l hold) {f : Lane → Lane}
    (same : ∀ x, (f x).standing = x.standing) : (p.modLane l f).Between T away l hold := by
  have fields := same (p.lane l)
  simp only [Lane.standing, Prod.mk.injEq] at fields
  obtain ⟨-, -, held, verified, offline, -, -, -, -, slot, -⟩ := fields
  refine b.setLane (slot.trans b.slot) held fun e n => ?_
  rw [verified, offline]
  exact b.flags e n

/-- R71: the hold of a PASSING lane released, and what was reported. -/
theorem Wb610.Fit.passingReleased (h : p.Fit T ∅) {t : Ticks} (passing : (p.lane l).state = .passing t) :
    (p.releaseHold l).Between T ∅ l none ∧ ((p.releaseHold l).lane l).testRelease = none ∧ (p.releaseHold l).Calm T := by
  obtain ⟨between, testing, calm⟩ := h.underWay (l := l) (by rw [passing]; rfl) (by rw [passing]; rfl) (by rw [passing]; rfl)
  exact ⟨between.releaseHold, (p.releaseHold_fields l).1.trans testing, Wb610.releaseHold_calm calm l⟩

/-! ## Steps (R85-R96) -/

theorem Wb610.Fit.beginForced (h : p.Fit T ∅) : (p.beginForced l).Fit T ∅ :=
  (h.report ..).modLane_same fun _ => (Lane.requestTone_standing .attention _).trans rfl

theorem Wb610.Fit.unpaidPassage (h : p.Fit T ∅) : (p.unpaidPassage l).Fit T ∅ := by
  refine Wb610.Fit.modLane_same (Wb610.Fit.report ?_ ..) (Lane.requestTone_standing .attention)
  exact h.modLane_same fun _ => rfl

theorem Wb610.Fit.forwardStep (h : p.Fit T ∅) (lost : Bool) : (p.forwardStep l lost).Fit T ∅ := by
  have stepped : (p.modLane l fun x => { x with rotor := x.rotor.stepForward }).Fit T ∅ := h.modLane_same fun _ => rfl
  unfold Wb610.forwardStep
  simp only
  generalize (p.modLane l fun x => { x with rotor := x.rotor.stepForward }) = q at stepped
  split
  case h_1 released =>
    split
    · have entered := stepped.enterPassing released q.settings
      split
      · refine entered.completePassage (t := q.settings.passageTime) ?_ lost
        rw [Wb610.lane_modLane_same]
        rfl
      · exact entered
    · exact stepped
  case h_2 passing =>
    split
    · exact stepped.completePassage passing lost
    · exact stepped
  case h_3 =>
    split
    · refine Wb610.Fit.modLane_same (stepped.of_standing ?_) fun _ => rfl
      rfl
    · exact stepped
  case h_4 =>
    split
    · exact stepped.modLane_same fun _ => rfl
    · exact stepped
  all_goals
    split
    · have forced : (if 6 ≤ (q.lane l).rotor.offset ∧ (q.lane l).rotor.forced = false then q.beginForced l else q).Fit T
          ∅ := by
        split
        · exact stepped.beginForced
        · exact stepped
      split
      · exact forced.unpaidPassage
      · exact forced
    · split
      · exact stepped.modLane_same fun _ => rfl
      · exact stepped

theorem Wb610.Fit.backwardStep (h : p.Fit T ∅) (lost : Bool) : (p.backwardStep l lost).Fit T ∅ := by
  have stepped : (p.modLane l fun x => { x with rotor := x.rotor.stepBack }).Fit T ∅ := h.modLane_same fun _ => rfl
  unfold Wb610.backwardStep
  simp only
  generalize (p.modLane l fun x => { x with rotor := x.rotor.stepBack }) = q at stepped
  split
  · have rested : (q.modLane l fun x => { x with rotor := x.rotor.rest }).Fit T ∅ := stepped.modLane_same fun _ => rfl
    have state : ((q.modLane l fun x => { x with rotor := x.rotor.rest }).lane l).state = (q.lane l).state := by
      rw [Wb610.lane_modLane_same]
      rfl
    split
    · exact (rested.report ..).modLane_same (Lane.requestTone_standing .attention)
    · next passing =>
      have reported := rested.report .backturn (some l) 0 (q.lane l).rotor.peak
        ((q.modLane l fun x => { x with rotor := x.rotor.rest }).lane l).currentKey
      obtain ⟨between, testing, calm⟩ := reported.passingReleased (by rw [Wb610.lane_report, state]; exact passing)
      refine (between.modLane_same (Lane.requestTone_standing .attention)).leavePassing ?_ calm lost
      rw [Wb610.lane_modLane_same, Lane.sync_testRelease]
      exact (congrArg (·.2.2.2.2.2.2.2.2.1) (Lane.requestTone_standing .attention _)).trans testing
    all_goals exact rested
  · exact stepped

/-! ## Encoder faults and the lines (R78, R83, R84) -/

theorem Wb610.Fit.faultClosure (h : p.Fit T ∅) : (p.faultClosure l).Fit T ∅ := by
  have home : l ∉ (∅ : Set LaneNo) := Set.notMem_empty l
  unfold Wb610.faultClosure
  split
  case h_6 back =>
    refine Wb610.Fit.report (h.modLane_fits (fun fits => ?_) rfl rfl) ..
    obtain ⟨⟨occupied, waits, -, rest⟩, held, free, ready⟩ := fits
    have nobody : (p.lane l).current = none := by
      rw [back] at occupied
      simpa [LaneState.occupied] using occupied
    refine ⟨⟨occupied, fun set => absurd (waits set).1 ?_, fun _ => ?_, rest⟩, held, free, ready⟩
    · simp [nobody]
    · rw [back]; rfl
  case h_7 | h_8 | h_9 => exact h
  all_goals
    next hs => exact (h.closeLane home (by rw [hs]; rfl) .fault).report ..

theorem Wb610.Fit.encoderFault (h : p.Fit T ∅) : (p.encoderFault l).Fit T ∅ := by
  have counted : ((p.modLane l fun x =>
      { x with rotor := { x.rotor with faults := addOne16 (p.lane l).rotor.faults } }).report .rotorFault (some l) 0
        (addOne16 (p.lane l).rotor.faults) .none).Fit T ∅ := by
    refine Wb610.Fit.report ?_ ..
    exact h.modLane_same fun _ => rfl
  unfold Wb610.encoderFault
  split
  case h_1 => exact h
  all_goals
    simp only
    split
    · exact counted.faultClosure
    · exact counted

theorem Wb610.Fit.rotorLines (h : p.Fit T ∅) (a b lost : Bool) : (p.rotorLines l a b lost).Fit T ∅ := by
  have lines : (p.modLane l fun x => { x with rotor := { x.rotor with lineA := a, lineB := b } }).Fit T ∅ :=
    h.modLane_same fun _ => rfl
  unfold Wb610.rotorLines
  simp only
  split
  · exact h
  · exact lines.forwardStep lost
  · exact lines.backwardStep lost
  · exact lines.encoderFault

/-! ## Lane timers (R70-R72, R77) -/

theorem Wb610.Fit.admitWindowExpiry (h : p.Fit T ∅) (lost : Bool) : (p.admitWindowExpiry l lost).Fit T ∅ := by
  unfold Wb610.admitWindowExpiry
  split
  · next released =>
    obtain ⟨between, testing, calm⟩ :=
      h.underWay (l := l) (by rw [released]; rfl) (by rw [released]; rfl) (by rw [released]; rfl)
    obtain ⟨testing', closing'⟩ := p.releaseHold_fields l
    have calm' := (Wb610.releaseHold_calm calm l).of_standing
      (Wb610.report_standing _ .abandoned (some l) 0 0 (p.lane l).currentKey)
    refine (between.releaseHold.report ..).returnToIdle ?_ ?_ calm' lost <;> rw [Wb610.lane_report]
    · exact closing'.trans (h.not_closing (by rw [released]; rfl))
    · exact testing'.trans testing
  all_goals exact h

theorem Wb610.Fit.passageLimitExpiry (h : p.Fit T ∅) (lost : Bool) : (p.passageLimitExpiry l lost).Fit T ∅ := by
  unfold Wb610.passageLimitExpiry
  split
  · next passing =>
    obtain ⟨between, testing, calm⟩ := h.passingReleased passing
    refine (between.report ..).leavePassing ?_ (calm.of_standing (Wb610.report_standing _ ..)) lost
    rw [Wb610.lane_report]
    exact testing
  all_goals exact h

theorem Wb610.Fit.refusalDisplayExpiry (h : p.Fit T ∅) (lost : Bool) : (p.refusalDisplayExpiry l lost).Fit T ∅ := by
  unfold Wb610.refusalDisplayExpiry
  split
  · next refusing =>
    obtain ⟨-, testing, calm⟩ :=
      h.underWay (l := l) (by rw [refusing]; rfl) (by rw [refusing]; rfl) (by rw [refusing]; rfl)
    have settled := h.settled (l := l) (by rw [refusing]; rfl) (by rw [refusing]; rfl)
    exact settled.returnToIdle (h.not_closing (by rw [refusing]; rfl)) testing calm lost
  all_goals exact h

theorem Wb610.Fit.nextAgeExpiry (h : p.Fit T ∅) :
    (p.modLane l fun x => { x with next := x.next.map fun w => { w with age := none } }).Fit T ∅ := by
  refine h.modLane_fits (fun fits => ?_) rfl rfl
  obtain ⟨⟨occupied, waits, rest⟩, held, free, ready⟩ := fits
  exact ⟨⟨occupied, fun set => waits (Option.isSome_map.symm.trans set), rest⟩, held, free, ready⟩

theorem Wb610.Fit.repeatTimerExpiry (h : p.Fit T ∅) :
    (p.modLane l fun x => { x with repeatMemory := x.repeatMemory.map fun m => { m with timer := none } }).Fit T ∅ := by
  refine h.modLane_fits (fun fits => ?_) rfl rfl
  obtain ⟨⟨occupied, waits, defers, memory, rest⟩, held, free, ready⟩ := fits
  exact ⟨⟨occupied, waits, defers, fun set => memory (Option.isSome_map.symm.trans set), rest⟩, held, free, ready⟩

theorem Wb610.Fit.testReleaseExpiry (h : p.Fit T ∅) : (p.modLane l fun x => { x with testRelease := none }).Fit T ∅ := by
  refine h.modLane_fits (fun fits => ?_) rfl rfl
  obtain ⟨⟨occupied, waits, defers, memory, -, rest⟩, held, free, ready⟩ := fits
  exact ⟨⟨occupied, waits, defers, memory, nofun, rest⟩, held, free, ready⟩

end

end Sys2Proof.Machine
end

