-- ==== Sys2Proof/Proofs/FitsRequests.lean ====
section
/-! SUPPORT. The server line and the host's requests keep the lanes shaped, the holds and the messages matched (Chapters 1,
3, 6, 8 and 11). -/

namespace Sys2Proof.Machine

section
variable {T : Terms} {p : Wb610} {l : LaneNo}

/-! ## What leaves the standing of the part as it is -/

@[simp] theorem Wb610.respond_standing (p : Wb610) (f : Frame) (code : ResultCode) (fields : List Byte) :
    (p.respond f code fields).standing = p.standing := rfl

theorem Wb610.Fit.respond (h : p.Fit T ∅) (f : Frame) (code : ResultCode) (fields : List Byte) :
    (p.respond f code fields).Fit T ∅ := h.of_standing rfl

theorem Wb610.discardFrame_standing (p : Wb610) (cause : Nat) : (p.discardFrame cause).standing = p.standing :=
  Wb610.report_standing _ ..

theorem Wb610.hostHeard_standing (p : Wb610) : p.hostHeard.standing = p.standing := by
  unfold Wb610.hostHeard
  simp only
  split
  · rfl
  · exact Wb610.report_standing _ ..

theorem Wb610.validFrame_standing (p : Wb610) (f : Frame) : (p.validFrame f).standing = p.standing := by
  unfold Wb610.validFrame
  simp only
  split
  · exact p.hostHeard_standing
  · exact (Wb610.discardFrame_standing _ 5).trans p.hostHeard_standing

theorem Wb610.receiveByte_standing (p : Wb610) (b : Byte) (lineError : Bool) :
    (p.receiveByte b lineError).standing = p.standing := by
  unfold Wb610.receiveByte Wb610.storeByte
  split
  · split <;> rfl
  · split
    · exact p.discardFrame_standing 1
    · simp only
      split
      · rfl
      split
      · exact p.discardFrame_standing 3
      split
      · rfl
      split
      · exact p.validFrame_standing _
      · exact p.discardFrame_standing 4

theorem Wb610.gapTimeout_standing (p : Wb610) : p.gapTimeout.standing = p.standing := by
  unfold Wb610.gapTimeout
  split
  · rfl
  · exact p.discardFrame_standing 2

theorem Wb610.takeReport_standing (p : Wb610) (r : Report) (rest : List Report) :
    (p.takeReport r rest).standing = p.standing := by
  unfold Wb610.takeReport
  simp only
  split
  · rfl
  · exact Wb610.report_standing _ ..

theorem Wb610.chooseReader_standing (p : Wb610) : p.chooseReader.standing = p.standing := by
  rcases p.chooseReader_cases with e | ⟨l, -, e⟩ <;> rw [e]
  rfl

/-! ## The server line (R186, R193) -/

theorem Wb610.Fit.arbiter (h : p.Fit T ∅) : p.arbiter.Fit T ∅ := by
  unfold Wb610.arbiter
  split
  · exact h
  split
  · exact h.of_standing rfl
  split
  · next m rest queue =>
    refine Wb610.Fit.of_standing (p := { p with verifyQueue := rest }) (h.fewer ?_) rfl
    rw [queue]
    exact List.sublist_cons_self m rest
  split
  · exact h.of_standing (p.takeReport_standing _ _)
  · exact h.of_standing rfl
  · exact h.of_standing rfl

theorem Wb610.Fit.restartResponseSent (h : p.Fit T ∅) : p.restartResponseSent.Fit T ∅ := by
  unfold Wb610.restartResponseSent
  split
  · exact Wb610.Fit.of_standing (p := { p with verifyQueue := [] }) (h.fewer (List.nil_sublist _)) rfl
  · exact h

/-! ## Requests (R183) -/

/-- A request row keeps what its body keeps. -/
theorem Wb610.Fit.serve {serves : Frame → Bool} {body : Wb610 → Frame → Wb610}
    (h : p.Fit T ∅) (keeps : ∀ (q : Wb610) (f : Frame), q.Fit T ∅ → (body q f).Fit T ∅) :
    (p.serve serves body).Fit T ∅ := by
  rcases p.serve_cases serves body with e | ⟨f, rest, -, -, -, -, -, e⟩
  · rw [e]; exact h
  · rw [e]; exact keeps _ f (h.of_standing rfl)

theorem Wb610.Fit.serveFixed {ty : Byte} {n : Nat} {body : Wb610 → Frame → Wb610}
    (h : p.Fit T ∅) (keeps : ∀ (q : Wb610) (f : Frame), q.Fit T ∅ → (body q f).Fit T ∅) :
    (p.serveFixed ty n body).Fit T ∅ := by
  refine h.serve fun q f fit => ?_
  split
  · exact keeps q f fit
  · exact fit.respond f _ _

theorem Wb610.Fit.statusRead (h : p.Fit T ∅) (blocks : List StatusBlock) : (p.statusRead blocks).Fit T ∅ := by
  have goesOn {q : Wb610} (fit : q.Fit T ∅) (tag : Byte) (read : List (Option (List Byte))) :
      (q.continueStatus tag read).Fit T ∅ := by
    unfold Wb610.continueStatus
    split <;> exact fit.of_standing rfl
  unfold Wb610.statusRead
  split
  · exact goesOn h _ _
  case h_6 => exact h.serveFixed fun q f fit => goesOn fit _ _
  all_goals exact h

theorem Wb610.Fit.configureGate (h : p.Fit T ∅) (f : Frame) : (p.configureGate f).Fit T ∅ := by
  unfold Wb610.configureGate
  split
  · exact h.respond f _ _
  · exact h.of_standing rfl

/-- R174, R175: the clock set. -/
theorem Wb610.Fit.clockSet (h : p.Fit T ∅) (value : Nat) (t : Timer) :
    ({ p with clock := some value, secondTimer := t } : Wb610).Fit T ∅ where
  lanes m hm := by
    obtain ⟨shaped, held, free, ready⟩ := h.lanes m hm
    exact ⟨shaped, held, free, fun e s => ⟨rfl, (ready e s).2⟩⟩
  messages := h.messages
  sound := h.sound
  refs := h.refs
  debounced := h.debounced

theorem Wb610.Fit.setTime (h : p.Fit T ∅) (f : Frame) : (p.setTime f).Fit T ∅ := by
  unfold Wb610.setTime
  simp only
  split
  · exact (h.clockSet _ _).respond f _ _
  · exact h.respond f _ _

/-! ## Requests to a lane (R52, R73-R77, R118) -/

theorem Lane.configure_standing (x : Lane) (c : LaneConfig) : (x.configure c).standing = x.standing := by
  unfold Lane.configure Lane.changeCardSource
  split
  · rfl
  split
  · rfl
  split <;> rfl

theorem Wb610.Fit.configureLane (h : p.Fit T ∅) (f : Frame) : (p.configureLane f).Fit T ∅ := by
  unfold Wb610.configureLane
  split
  · exact h.respond f _ _
  · next l c _ =>
    split
    · have configured : (p.modLane l (Lane.configure c)).Fit T ∅ := h.modLane_same fun x => x.configure_standing c
      refine Wb610.Fit.respond (configured.of_standing ?_) f _ _
      unfold Wb610.configuredLane
      exact Wb610.chooseReader_standing _
    · exact h.respond f _ _

/-- The gate of a lane that is not FREE is without an emergency. -/
theorem Lane.Fits.no_emergency {x : Lane} (h : x.Fits T p l) (taken : x.state.isFree = false) (e : T.emergency) :
    p.emergency = false := by
  rw [← h.free e]
  exact taken

theorem Wb610.Fit.openLane (h : p.Fit T ∅) (f : Frame) : (p.openLane f).Fit T ∅ := by
  unfold Wb610.openLane
  split
  · exact h.respond f _ _
  next l _ =>
  split
  · next closed =>
    split
    · exact h.respond f _ _
    next prepared =>
    refine Wb610.Fit.respond (h.modLane_fits (fun fits => ?_) rfl rfl) f _ _
    have serviceable : p.Serviceable := by
      simpa [Wb610.Serviceable, Option.isSome_iff_ne_none] using prepared
    cases hs : (p.lane l).state with
    | closed cause =>
      have calm : p.Calm T := ⟨fits.no_emergency (by rw [hs]; rfl), fun _ => serviceable⟩
      obtain ⟨-, -, defers, -, tests, -⟩ := fits.shaped
      rw [hs] at defers tests
      have settled := h.settled (l := l) (by rw [hs]; rfl) (by rw [hs]; rfl)
      refine Lane.fits_of_open calm rfl
        ⟨rfl, nofun, fun set => absurd (defers set) (by simp [LaneState.canDefer]), nofun,
          fun set => absurd (tests set) (by simp [LaneState.isTest]), ?_, ?_⟩ fun e => ?_
      · simp [Lane.openLane, Lane.enterIdle, settled.slot, LaneState.isVerifying]
      · simp [Lane.openLane, Lane.enterIdle, settled.slot]
      · simp [Lane.HoldShaped, Lane.openLane, Lane.enterIdle, settled.named e, settled.slot, settled.flags e rfl,
          LaneState.admitted]
    | _ => simp [hs, LaneState.isClosed] at closed
  · exact h.respond f _ _

/-- R75: LANE CLOSE at a lane that can carry the mark. -/
theorem Wb610.Fit.deferClose (h : p.Fit T ∅) (defers : (p.lane l).state.canDefer = true) :
    (p.modLane l Lane.deferClose).Fit T ∅ := by
  unfold Wb610.modLane Lane.deferClose
  split
  · exact h.setLane_same rfl
  · refine h.modLane_fits (f := fun x => { x with closePending := some .host, next := none }) (fun fits => ?_) rfl rfl
    obtain ⟨⟨occupied, -, -, rest⟩, held, free, ready⟩ := fits
    exact ⟨⟨occupied, nofun, fun _ => defers, rest⟩, held, free, ready⟩

/-- R76: a lane in TEST closes. -/
theorem Wb610.Fit.closeTested (h : p.Fit T ∅) {c : ClosedCause} (test : (p.lane l).state = .test c) :
    (p.modLane l (Lane.close .host)).Fit T ∅ := by
  have home : l ∉ (∅ : Set LaneNo) := Set.notMem_empty l
  exact (h.settled (by rw [test]; rfl) (by rw [test]; rfl)).close
    ((h.lanes l home).no_emergency (by rw [test]; rfl)) .host

theorem Wb610.Fit.closeRequest (h : p.Fit T ∅) (f : Frame) : (p.closeRequest f).Fit T ∅ := by
  unfold Wb610.closeRequest
  split
  · exact h.respond f _ _
  next l _ =>
  have home : l ∉ (∅ : Set LaneNo) := Set.notMem_empty l
  split
  · exact h.respond f _ _
  · next test => exact (h.closeTested test).respond f _ _
  case h_7 hs | h_8 hs => exact (h.deferClose (by rw [hs]; rfl)).respond f _ _
  all_goals
    next hs => exact (h.closeLane home (by rw [hs]; rfl) .host).respond f _ _

/-- R77: a test action at a lane in TEST changes its test release, its signals and its tone. -/
theorem Lane.Fits.testAct {x : Lane} (h : x.Fits T p l) (test : x.state.isTest = true) (a : TestAction) :
    (x.testAct a).Fits T p l := by
  have release (t : Timer) : ({ x with testRelease := t } : Lane).Fits T p l := by
    obtain ⟨⟨occupied, waits, defers, memory, -, rest⟩, held, free, ready⟩ := h
    exact ⟨⟨occupied, waits, defers, memory, fun _ => test, rest⟩, held, free, ready⟩
  unfold Lane.testAct
  split
  · exact release none
  · exact release _
  · exact h.of_standing rfl
  · exact h.of_standing (Lane.requestTone_standing _ x)
  · exact h

theorem Lane.testAct_kept (x : Lane) (a : TestAction) : (x.testAct a).hold = x.hold ∧ (x.testAct a).slot = x.slot := by
  unfold Lane.testAct
  split
  case h_4 t =>
    rw [x.requestTone_eq t]
    exact ⟨rfl, rfl⟩
  all_goals exact ⟨rfl, rfl⟩

/-- R76: TEST entered from CLOSED. -/
theorem Lane.Fits.enterTest {x : Lane} (h : x.Fits T p l) {c : ClosedCause} (closed : x.state = .closed c) :
    (x.enterTest c).Fits T p l := by
  obtain ⟨⟨occupied, waits, defers, memory, -, asks, query⟩, held, free, ready⟩ := h
  rw [closed] at occupied defers memory asks
  refine ⟨⟨occupied, waits, fun set => absurd (defers set) (by simp [LaneState.canDefer]), ?_, nofun, asks, query⟩,
    fun e => ?_, fun e => ?_, nofun⟩
  · exact fun set => absurd (memory set) (by simp [LaneState.isOpen])
  · have shaped := held e
    rw [Lane.HoldShaped, closed] at shaped
    exact shaped
  · have taken := free e
    rw [closed] at taken
    exact taken

theorem Wb610.Fit.testLane (h : p.Fit T ∅) (f : Frame) (a : TestAction) : (p.testLane f l a).Fit T ∅ := by
  unfold Wb610.testLane
  split
  · next c closed =>
    obtain ⟨hold, slot⟩ := ((p.lane l).enterTest c).testAct_kept a
    exact (h.modLane_fits (fun fits => (fits.enterTest closed).testAct rfl a) hold slot).respond f _ _
  · next c test =>
    obtain ⟨hold, slot⟩ := (p.lane l).testAct_kept a
    exact (h.modLane_fits (fun fits => fits.testAct (by rw [test]; rfl) a) hold slot).respond f _ _
  all_goals exact h.respond f _ _

theorem Wb610.Fit.laneTest (h : p.Fit T ∅) (action : Nat) : (p.laneTest action).Fit T ∅ := by
  refine h.serve fun q f fit => ?_
  split
  · exact fit.respond f _ _
  · split
    · exact fit.testLane f _
    · exact fit.respond f _ _

theorem Wb610.Fit.remotePresent (h : p.Fit T ∅) (lost : Bool) (f : Frame) : (p.remotePresent lost f).Fit T ∅ := by
  unfold Wb610.remotePresent
  split
  · split
    · exact (h.arrive _ lost).respond f _ _
    · exact h.respond f _ _
  · exact h.respond f _ _

/-! ## Requests to the table (R11-R21) -/

theorem Wb610.Fit.serveList (h : p.Fit T ∅) (type : Byte) (maxCount size : Nat)
    (request : Byte → List (List Byte) → Request) : (p.serveList type maxCount size request).Fit T ∅ := by
  refine h.serve fun q f fit => ?_
  split
  · exact fit.respond f _ _
  · exact fit.of_standing rfl

theorem Wb610.continueLoad_standing (p : Wb610) (tag : Byte) (todo : List (List Byte)) (statuses : List Byte) :
    (p.continueLoad tag todo statuses).standing = p.standing := by
  unfold Wb610.continueLoad
  split <;> rfl

theorem Wb610.continueDelete_standing (p : Wb610) (tag : Byte) (todo : List (List Byte)) (statuses : List Byte) :
    (p.continueDelete tag todo statuses).standing = p.standing := by
  unfold Wb610.continueDelete
  split <;> rfl

theorem Wb610.continueRevoke_standing (p : Wb610) (tag : Byte) (todo : List (List Byte)) (statuses : List Byte) :
    (p.continueRevoke tag todo statuses).standing = p.standing := by
  unfold Wb610.continueRevoke
  split <;> rfl

theorem Wb610.Fit.tableLoadRecord (h : p.Fit T ∅) : p.tableLoadRecord.Fit T ∅ := by
  unfold Wb610.tableLoadRecord
  split
  · next record todo statuses _ =>
    exact (h.hostEdit (p.table.hostEdit_loadRecord record)).of_standing (Wb610.continueLoad_standing _ ..)
  · exact h.of_standing (p.continueLoad_standing ..)
  all_goals exact h

theorem Wb610.Fit.tableDeleteKey (h : p.Fit T ∅) : p.tableDeleteKey.Fit T ∅ := by
  unfold Wb610.tableDeleteKey
  split
  · next piece todo statuses _ =>
    exact (h.hostEdit (p.table.hostEdit_deleteKey piece)).of_standing (Wb610.continueDelete_standing _ ..)
  · exact h.of_standing (p.continueDelete_standing ..)
  all_goals exact h

theorem Wb610.Fit.tableRevokeKey (h : p.Fit T ∅) : p.tableRevokeKey.Fit T ∅ := by
  unfold Wb610.tableRevokeKey
  split
  · next piece todo statuses _ =>
    exact (h.hostEdit (p.table.hostEdit_revokeKey piece)).of_standing (Wb610.continueRevoke_standing _ ..)
  · exact h.of_standing (p.continueRevoke_standing ..)
  all_goals exact h

theorem Wb610.Fit.useUpdate (h : p.Fit T ∅) (kind : Nat) : (p.useUpdate kind).Fit T ∅ := by
  refine h.serve fun q f fit => ?_
  split
  · exact fit.respond f _ _
  split
  · exact (fit.hostEdit (q.table.hostEdit_enterElsewhere _ _)).respond f _ _
  split
  · exact (fit.hostEdit (q.table.hostEdit_passOutElsewhere _ _)).respond f _ _
  · exact fit.respond f _ _

theorem Wb610.Fit.readByKey (h : p.Fit T ∅) (f : Frame) : (p.readByKey f).Fit T ∅ := by
  unfold Wb610.readByKey
  split
  · exact h.respond f _ _
  · simp only
    split <;> exact h.respond f _ _

theorem Wb610.Fit.readByBucket (h : p.Fit T ∅) (f : Frame) : (p.readByBucket f).Fit T ∅ := by
  unfold Wb610.readByBucket
  simp only
  split
  · exact h.respond f _ _
  · split <;> exact h.respond f _ _

theorem Wb610.Fit.clearBucket (h : p.Fit T ∅) (f : Frame) : (p.clearBucket f).Fit T ∅ := by
  unfold Wb610.clearBucket
  split
  · exact h.respond f _ _
  next b _ =>
  simp only
  split
  · exact h.respond f _ _
  · next loose => exact (h.hostEdit (p.table.hostEdit_clear b (by simpa using loose))).respond f _ _

/-- R21: with every lane CLOSED no key is held. -/
theorem Wb610.Fit.no_holder (h : p.Fit T ∅) (e : T.holds) (closed : p.allClosed = true) (k : Key) :
    p.table.holder k = none := by
  by_contra held
  obtain ⟨l, hl⟩ := Option.ne_none_iff_exists'.mp held
  obtain ⟨c, hc⟩ := p.allClosed_iff.mp closed l
  have unheld := (h.settled (l := l) (by rw [hc]; rfl) (by rw [hc]; rfl)).named e
  rw [(h.refs e k l).mp hl] at unheld
  cases unheld

theorem Wb610.Fit.clearTable (h : p.Fit T ∅) (f : Frame) : (p.clearTable f).Fit T ∅ := by
  unfold Wb610.clearTable
  split
  · next closed =>
    have cleared : ({ p with table := .empty } : Wb610).Fit T ∅ := by
      refine ⟨fun m hm => ?_, h.messages, fun _ => Table.sound_empty, fun e k m => ?_, h.debounced⟩
      · obtain ⟨shaped, held, free, ready⟩ := h.lanes m hm
        exact ⟨shaped, held, free, ready⟩
      · refine Iff.trans ?_ (h.refs e k m)
        rw [h.no_holder e closed k]
        rfl
    exact cleared.respond f _ _
  · exact h.respond f _ _

/-! ## Journal, counters, sweep and RESTART (R143, R151, R154, R155, R176) -/

theorem Wb610.Fit.readJournal (h : p.Fit T ∅) (f : Frame) : (p.readJournal f).Fit T ∅ := by
  unfold Wb610.readJournal
  simp only
  split <;> exact h.respond f _ _

theorem Wb610.Fit.readCounters (h : p.Fit T ∅) (option : Nat) : (p.readCounters option).Fit T ∅ := by
  refine h.serve fun q f fit => ?_
  split
  · exact fit.respond f _ _
  split
  · exact fit.of_standing rfl
  · exact fit.respond f _ _

theorem Wb610.continueCounters_standing (p : Wb610) (tag : Byte) (clear : Bool) (todo : List LaneNo)
    (values : List Byte) : (p.continueCounters tag clear todo values).standing = p.standing := by
  unfold Wb610.continueCounters
  split <;> rfl

theorem Wb610.Fit.countersReadLane (h : p.Fit T ∅) : p.countersReadLane.Fit T ∅ := by
  unfold Wb610.countersReadLane
  split
  · next tag clear l todo values _ =>
    have cleared : (if clear then p.modLane l fun x => { x with counters := .zero } else p).Fit T ∅ := by
      split
      · exact h.modLane_same fun _ => rfl
      · exact h
    exact cleared.of_standing (Wb610.continueCounters_standing _ ..)
  · exact h.of_standing (p.continueCounters_standing ..)
  all_goals exact h

theorem Wb610.Fit.sweepNow (h : p.Fit T ∅) (f : Frame) : (p.sweepNow f).Fit T ∅ := by
  unfold Wb610.sweepNow
  split
  · exact h.respond f _ _
  · exact h.of_standing rfl

theorem Wb610.Fit.foldl {act : Wb610 → LaneNo → Wb610} (keeps : ∀ q l, Wb610.Fit T ∅ q → (act q l).Fit T ∅)
    (ls : List LaneNo) (h : p.Fit T ∅) : (ls.foldl act p).Fit T ∅ := by
  induction ls generalizing p with
  | nil => exact h
  | cons l ls ih => exact ih (keeps p l h)

/-- An act on every lane. -/
theorem Wb610.Fit.eachLane {act : Wb610 → LaneNo → Wb610} (h : p.Fit T ∅)
    (keeps : ∀ q l, Wb610.Fit T ∅ q → (act q l).Fit T ∅) : (p.eachLane act).Fit T ∅ := h.foldl keeps laneNos

/-- R31, R81, R134: one lane at RESTART: FREE stays FREE, every other state closes. -/
theorem Wb610.Fit.restartLane (h : p.Fit T ∅) (l : LaneNo) : (p.restartLane l).Fit T ∅ := by
  have home : l ∉ (∅ : Set LaneNo) := Set.notMem_empty l
  have between := h.cancel home
  have course := p.cancel_course l
  simp only [Lane.course, Prod.mk.injEq] at course
  obtain ⟨state, -⟩ := course
  have emergency := (p.inCycle_cancel l).emergency
  have free := (h.lanes l home).free
  rw [← state] at free
  unfold Wb610.restartLane
  generalize (p.dropQuery l).releaseHold l = q at between state emergency free
  refine between.rest.setLane (fun _ => ⟨?_, fun e => ?_, fun e => ?_, fun e => ?_⟩) (fun _ => rfl) fun _ _ _ _ => rfl
  · cases hs : (q.lane l).state <;>
      simp [Lane.restart, Lane.Shaped, hs, between.slot, LaneState.afterRestart, LaneState.occupied, LaneState.isVerifying]
  · cases hs : (q.lane l).state <;>
      simp [Lane.restart, Lane.HoldShaped, hs, between.slot, between.named e, LaneState.afterRestart, LaneState.admitted]
  · rw [emergency, ← free e]
    cases hs : (q.lane l).state <;> simp [Lane.restart, hs, LaneState.afterRestart, LaneState.isFree]
  · cases hs : (q.lane l).state <;> simp [Lane.restart, hs, LaneState.afterRestart, LaneState.inService]

theorem Wb610.Fit.restart (h : p.Fit T ∅) (f : Frame) : (p.restartBlocks.respond f .ok []).Fit T ∅ := by
  have lanes := h.eachLane fun q l fit => Wb610.Fit.restartLane fit l
  unfold Wb610.restartBlocks
  simp only
  generalize p.eachLane Wb610.restartLane = q at lanes
  refine Wb610.Fit.respond (Wb610.Fit.of_standing ?_ (Wb610.chooseReader_standing _)) f _ _
  exact Wb610.Fit.of_standing (p := { q with verifyQueue := [] }) (lanes.fewer (List.nil_sublist _)) rfl

/-! ## Verdicts (R126-R131) -/

theorem Wb610.slot_of_matchQuery {tag : Nat} {q : Query} (h : p.matchQuery tag = some (l, q)) :
    (p.lane l).slot = some q := by
  unfold Wb610.matchQuery at h
  split at h
  · cases h
  split at h
  · cases h
  · next asked =>
    split at h
    · cases h
      exact asked
    · cases h

/-- R124: a query dropped does not read the table. -/
theorem Wb610.dropQuery_with_table (p : Wb610) (l : LaneNo) (t : Table) :
    { p with table := t }.dropQuery l = { p.dropQuery l with table := t } := by
  have lane : ({ p with table := t } : Wb610).lane l = p.lane l := rfl
  unfold Wb610.dropQuery
  rw [lane]
  cases (p.lane l).slot <;> rfl

/-- R27: a record inserted with a hold of the lane that decides its key. -/
theorem Wb610.Decides.inserted {q : Presentation} (d : p.Decides T ∅ l q false) (purpose : Purpose) {e : Entry}
    (at_key : e.key = q.key) (absent : p.table.find e.key = none)
    (room : (p.table.bucket (bucketOf e.key)).entries.length < 32) (prior : e.state.prior.isSome = true) :
    ({ p with table := p.table.append (e.takeHold l purpose) }.modLane l fun x => { x with hold := some q.key }).Decides
      T ∅ l q true := by
  have key : (e.takeHold l purpose).key = e.key := e.takeHold_key l purpose
  refine d.hold (fun s => Table.sound_append s (key ▸ absent) (key ▸ room)) ?_ (fun s => ?_) fun s k other => ?_
  · rw [← at_key, Table.holder, absent]
    rfl
  · rw [← at_key, ← key, Table.holder_eq, Table.append, Table.writeEntries, Table.bucket_setBucket_same _ _ _ s.1,
      holderIn_append_same (key ▸ absent)]
    exact Entry.takeHold_holdLane prior l purpose
  · refine Table.holder_setBucket s.1 fun _ => holderIn_append_ne ?_
    rw [key, at_key]
    exact fun same => other same.symm

/-- R27: a record that may be inserted is one a hold can be taken on. -/
theorem Entry.prior_of_fitsPurpose {clock : Option Nat} {purpose : Purpose} {e : Entry}
    (h : e.fitsPurpose clock purpose = true) : e.state.prior.isSome = true := by
  unfold Entry.fitsPurpose at h
  cases purpose <;> cases hs : e.state <;> simp [hs] at h <;> rfl

theorem verdictEntryOf_spec {clock : Option Nat} {q : Query} {payload : List Byte} {e : Entry}
    (h : verdictEntryOf clock q payload = some e) : e.key = q.key ∧ e.state.prior.isSome = true := by
  unfold verdictEntryOf at h
  split at h
  · split at h
    · split at h
      · next fits =>
        cases h
        exact ⟨fits.1, Entry.prior_of_fitsPurpose fits.2⟩
      · cases h
    · cases h
  · cases h

theorem Wb610.Fit.verdictAdmitUnheld (h : p.Fit T ∅) (f : Frame) {r : Query} (asked : (p.lane l).slot = some r)
    (unflagged : r.cause ≠ .flagged) : (p.verdictAdmitUnheld f l r).Fit T ∅ := by
  obtain ⟨q, -, same, decides⟩ := h.asked (Set.notMem_empty l) asked
  rw [decide_eq_false unflagged] at decides
  unfold Wb610.verdictAdmitUnheld
  split
  · exact h.respond f _ _
  next e he =>
  obtain ⟨at_key, prior⟩ := verdictEntryOf_spec he
  simp only
  rw [Wb610.dropQuery_with_table]
  have table : (p.dropQuery l).table = p.table := p.dropQuery_table l
  rcases p.table.verifiedInsert_cases l r.purpose e with ⟨unchanged, outcome⟩ | ⟨absent, room, inserted⟩
  · have unwritten : ({ p.dropQuery l with table := p.table } : Wb610) = p.dropQuery l := by rw [← table]
    rw [unchanged, unwritten]
    split
    · next insert => exact absurd insert outcome
    · exact (decides.refuse _).respond f _ _
    · exact (decides.refuse _).respond f _ _
  · rw [inserted]
    rw [← table] at absent room
    have holds := decides.inserted r.purpose (at_key.trans same) absent room prior
    rw [table, ← same, ← at_key] at holds
    exact (holds.admitHolder rfl).respond f _ _

theorem Wb610.Fit.takeVerdict (h : p.Fit T ∅) (f : Frame) : (p.takeVerdict f).Fit T ∅ := by
  unfold Wb610.takeVerdict
  split
  · split
    · exact h.respond f _ _
    next l r matched =>
    have asked := Wb610.slot_of_matchQuery matched
    obtain ⟨q, -, -, decides⟩ := h.asked (Set.notMem_empty l) asked
    split
    · exact (decides.releaseHold.refuse _).respond f _ _
    split
    · next cause =>
      rw [cause] at decides
      exact (decides.admitHolder rfl).respond f _ _
    · next cause => exact h.verdictAdmitUnheld f asked (by rw [cause]; nofun)
    · next cause => exact h.verdictAdmitUnheld f asked (by rw [cause]; nofun)
  · exact h.respond f _ _

end

end Sys2Proof.Machine
end

