-- ==== Sys2Proof/Proofs/FitsEvents.lean ====
section
/-! SUPPORT. Power-on, the bus, the ports, the sweep, the gate inputs and one tick keep the lanes shaped, the holds and the
messages matched (Chapters 5, 7 and 10, R177, log 1); with the rest, every command and every tick keeps them. -/

namespace Sys2Proof.Machine

section
variable {T : Terms} {p : Wb610} {l : LaneNo}

/-! ## Power-on (R177) -/

theorem Lane.powerOn_shaped (l : LaneNo) (a b : Bool) : (Lane.powerOn a b).Shaped l := by
  simp [Lane.Shaped, Lane.powerOn, LaneState.occupied, LaneState.isVerifying]

theorem Lane.powerOn_holdShaped (a b : Bool) : (Lane.powerOn a b).HoldShaped := by
  simp [Lane.HoldShaped, Lane.powerOn, LaneState.admitted]

theorem Wb610.fit_powerOn (a b : BitVec 10) (contactOpen : Bool) : (Wb610.powerOn a b contactOpen).Fit T ∅ where
  lanes m _ := by
    rw [Wb610.lane_powerOn]
    exact ⟨Lane.powerOn_shaped m _ _, fun _ => Lane.powerOn_holdShaped _ _, fun _ => rfl, fun _ s => absurd s nofun⟩
  messages _ := by simp [Wb610.MessagesMatch, Wb610.powerOn]
  sound _ := Table.sound_empty
  refs _ k m := by
    rw [Wb610.lane_powerOn]
    exact iff_of_false nofun nofun
  debounced _ := by cases contactOpen <;> rfl

/-! ## The card reader bus and the barcode ports (Chapter 5) -/

theorem Wb610.Fit.miss (h : p.Fit T ∅) : (p.miss l).Fit T ∅ := by
  unfold Wb610.miss
  simp only
  split
  · split
    · exact h.modLane_same fun _ => rfl
    · refine Wb610.Fit.report ?_ ..
      exact h.modLane_same fun _ => rfl
  · exact h.modLane_same fun _ => rfl

theorem Wb610.Fit.endPoll (h : p.Fit T ∅) : p.endPoll.Fit T ∅ := h.of_standing (Wb610.chooseReader_standing _)

theorem Wb610.Fit.goodAnswer (h : p.Fit T ∅) (left : Bool) (c : BusContent) (lost : Bool) :
    (p.goodAnswer l left c lost).Fit T ∅ := by
  have answers : (p.readerAnswers l).Fit T ∅ := by
    have fresh : (p.modLane l fun x => { x with reader := .fresh }).Fit T ∅ := h.modLane_same fun _ => rfl
    unfold Wb610.readerAnswers
    simp only
    split
    · exact fresh
    · exact fresh.report ..
  unfold Wb610.goodAnswer
  cases c with
  | idle => exact answers
  | card k =>
    simp only
    split
    · exact answers
    · exact answers.arrive _ lost
  | fault code => exact answers.report ..

theorem Wb610.Fit.busBytes (h : p.Fit T ∅) (bytes : List Byte) (lost : Bool) : (p.busBytes bytes lost).Fit T ∅ := by
  unfold Wb610.busBytes
  split
  · split
    · exact h
    · exact h.miss.endPoll
    · split
      · exact (h.goodAnswer _ _ lost).endPoll
      · exact h.miss.endPoll
  · exact h
  · exact h

theorem Wb610.Fit.pollSent (h : p.Fit T ∅) : p.pollSent.Fit T ∅ := by
  unfold Wb610.pollSent
  split
  · exact h.of_standing rfl
  · exact h
  · exact h

theorem Wb610.Fit.pollWindowExpiry (h : p.Fit T ∅) : p.pollWindowExpiry.Fit T ∅ := by
  unfold Wb610.pollWindowExpiry
  split
  · exact h.miss.endPoll
  · exact h
  · exact h

theorem Wb610.Fit.repollTimerExpiry (h : p.Fit T ∅) : (p.repollTimerExpiry l).Fit T ∅ := by
  unfold Wb610.repollTimerExpiry
  split
  · refine Wb610.Fit.of_standing ?_ (Wb610.chooseReader_standing _)
    exact h.modLane_same fun _ => rfl
  · exact h
  · exact h

theorem Wb610.Fit.barcodeCharacter (h : p.Fit T ∅) (c : Byte) (framingError lost : Bool) :
    (p.barcodeCharacter l c framingError lost).Fit T ∅ := by
  have port (q : Wb610) (fit : q.Fit T ∅) (f : Port → Port) :
      (q.modLane l fun x => { x with port := f x.port }).Fit T ∅ := fit.modLane_same fun _ => rfl
  unfold Wb610.barcodeCharacter Wb610.endLine
  simp only
  split
  · have ended := port p h Port.newLine
    split
    · split
      · have arrived := ended.arrive (l := l) (barcodePresentation (p.lane l).port.buffer) lost
        unfold Wb610.goodLine
        simp only
        split
        · exact port _ (arrived.report ..) fun b => { b with fault := false, badCount := 0 }
        · exact port _ arrived fun b => { b with fault := false, badCount := 0 }
      · unfold Wb610.badLine
        simp only
        generalize (p.modLane l fun x => { x with port := x.port.newLine }) = q at ended
        have counted : (q.modLane l fun x =>
            if x.state.isOpen then
              Lane.requestTone .error { x with port := { x.port with badCount := addOne16 (q.lane l).port.badCount } }
            else { x with port := { x.port with badCount := addOne16 (q.lane l).port.badCount } }).Fit T ∅ := by
          refine ended.modLane_same fun x => ?_
          split
          · exact (Lane.requestTone_standing .error _).trans rfl
          · rfl
        split
        · exact (port _ counted fun b => { b with fault := true }).report ..
        · exact counted
    · exact ended
  · exact port p h (Port.take c framingError)

/-! ## The sweep and memory faults (R5, R137-R144) -/

/-- R10: a bucket rewritten with the same keys and holds keeps every holder. -/
theorem Wb610.Fit.bucketTags (h : p.Fit T ∅) (b : Fin 4096) {v : Bucket}
    (tags : v.entries.map Entry.tag = (p.table.bucket b.val).entries.map Entry.tag) :
    ({ p with table := p.table.setBucket b.val v } : Wb610).Fit T ∅ := by
  refine h.table (fun s => ?_) fun s k => Table.holder_setBucket s.1 fun _ => holderIn_of_tags tags
  have keys : v.entries.map (·.key) = (p.table.bucket b.val).entries.map (·.key) := by
    have firsts := congrArg (List.map Prod.fst) tags
    rw [List.map_map, List.map_map] at firsts
    exact firsts
  exact p.table.sound_setBucket _ _ s b.isLt (Bucket.sound_of_keys (p.table.sound_bucket s b.val) keys _ _)

theorem Wb610.Fit.compareBucket (h : p.Fit T ∅) (b : Fin 4096) : (p.compareBucket b.val).Fit T ∅ := by
  unfold Wb610.compareBucket
  simp only
  split
  · refine Wb610.Fit.report (h.bucketTags b ?_) ..
    rfl
  · exact h

/-- R29: an entry whose passout has run out is OUT_ON_PASSOUT. -/
theorem Entry.outOnPassout_of_expired {clock : Option Nat} {e : Entry} (h : e.expired clock = true) :
    ∃ x, e.state = .outOnPassout x := by
  unfold Entry.expired at h
  split at h
  · next hs => exact ⟨_, hs⟩
  · cases h

theorem Entry.converted_tag (clock : Option Nat) (e : Entry) : (e.converted clock).tag = e.tag := by
  unfold Entry.converted
  split
  · next gone =>
    obtain ⟨x, hs⟩ := Entry.outOnPassout_of_expired gone
    unfold Entry.tag Entry.holdLane
    rw [hs]
    rfl
  · rfl

theorem Wb610.reportExpired_standing (p : Wb610) (b : Nat) (gone : List Entry) :
    (p.reportExpired b gone).standing = p.standing := by
  induction gone generalizing p with
  | nil => rfl
  | cons e rest ih => exact (ih _).trans (p.report_standing ..)

theorem Wb610.Fit.convertExpired (h : p.Fit T ∅) (b : Fin 4096) : (p.convertExpired b.val).Fit T ∅ := by
  unfold Wb610.convertExpired
  simp only
  split
  · exact h
  · refine Wb610.Fit.of_standing ?_ (Wb610.reportExpired_standing _ _ _)
    refine h.bucketTags b ?_
    rw [List.map_map]
    exact List.map_congr_left fun e _ => Entry.converted_tag p.clock e

theorem Wb610.Fit.visited (h : p.Fit T ∅) :
    ((p.compareBucket p.sweepPointer.val).convertExpired p.sweepPointer.val).Fit T ∅ :=
  (h.compareBucket p.sweepPointer).convertExpired p.sweepPointer

theorem Wb610.Fit.sweepVisit (h : p.Fit T ∅) : p.sweepVisit.Fit T ∅ := by
  have visited := h.visited
  unfold Wb610.sweepVisit Wb610.visit
  simp only
  generalize (p.compareBucket p.sweepPointer.val).convertExpired p.sweepPointer.val = q at visited ⊢
  split
  · exact visited.of_standing rfl
  · exact h

theorem Wb610.Fit.fastPassVisit (h : p.Fit T ∅) : p.fastPassVisit.Fit T ∅ := by
  have visited := h.visited
  unfold Wb610.fastPassVisit Wb610.visit Wb610.endFastPass
  simp only
  generalize (p.compareBucket p.sweepPointer.val).convertExpired p.sweepPointer.val = q at visited ⊢
  split
  · split
    · refine Wb610.Fit.report ?_ ..
      exact visited.of_standing rfl
    · exact visited.of_standing rfl
  · exact h

theorem EntryState.disturb_lane (x : Nat) (s : EntryState) : (s.disturb x).hold.map (·.lane) = s.hold.map (·.lane) := by
  cases s with
  | held h =>
    unfold EntryState.disturb
    simp only
    split <;> rfl
  | outside | inside | outOnPassout _ | spent | void => rfl

theorem Entry.disturb_tag (d : Disturbance) (e : Entry) : (e.disturb d).tag = e.tag :=
  Prod.ext rfl (e.state.disturb_lane d.expiry)

theorem disturbEntries_tag (es : List Entry) (ds : List Disturbance) :
    (disturbEntries es ds).map Entry.tag = es.map Entry.tag := by
  induction es generalizing ds with
  | nil => cases ds <;> rfl
  | cons e es ih =>
    cases ds with
    | nil => rfl
    | cons d ds => simp [disturbEntries, ih, Entry.disturb_tag]

theorem Wb610.Fit.memoryFault (h : p.Fit T ∅) (b : Fin 4096) (values : List Disturbance) (code : Word16) :
    (p.memoryFault b values code).Fit T ∅ := by
  unfold Wb610.memoryFault
  simp only
  split
  · exact h.bucketTags b (disturbEntries_tag _ _)
  · exact h

/-! ## The emergency (R167-R171) -/

/-- The same terms with nothing asked about the emergency. -/
def Terms.inEmergency (T : Terms) : Terms := { T with emergency := False }

/-- What an act makes of its own lane, and leaves of the others, it makes of every lane. -/
theorem Wb610.lane_eachLane {act : Wb610 → LaneNo → Wb610} {P : Lane → Prop} (own : ∀ q l, P ((act q l).lane l))
    (others : ∀ (q : Wb610) l m, m ≠ l → (act q l).lane m = q.lane m) (p : Wb610) (m : LaneNo) :
    P ((p.eachLane act).lane m) := by
  have folds (ls : List LaneNo) : ∀ q : Wb610, P (q.lane m) ∨ m ∈ ls → P ((ls.foldl act q).lane m) := by
    induction ls with
    | nil =>
      rintro q (done | left)
      · exact done
      · cases left
    | cons k ks ih =>
      intro q h
      refine ih _ ?_
      by_cases at_k : m = k
      · subst at_k
        exact .inl (own q m)
      · rw [others q k m at_k]
        exact h.imp_right fun left => (List.mem_cons.mp left).resolve_left at_k
  exact folds laneNos p (.inr (mem_laneNos m))

theorem Wb610.Fit.inEmergency (h : p.Fit T ∅) : p.Fit T.inEmergency ∅ where
  lanes m hm := by
    obtain ⟨shaped, held, -, ready⟩ := h.lanes m hm
    exact ⟨shaped, held, nofun, ready⟩
  messages := h.messages
  sound := h.sound
  refs := h.refs
  debounced := nofun

theorem Wb610.Fit.settledEmergency (h : p.Fit T.inEmergency ∅) (free : ∀ m, (p.lane m).state.isFree = p.emergency)
    (debounced : p.debounce.isSome = (p.rawEmergency != p.emergency)) : p.Fit T ∅ where
  lanes m hm := by
    obtain ⟨shaped, held, -, ready⟩ := h.lanes m hm
    exact ⟨shaped, held, fun _ => free m, ready⟩
  messages := h.messages
  sound := h.sound
  refs := h.refs
  debounced _ := debounced

/-- R168: a lane is in service as before once it is FREE. -/
theorem LaneState.inService_rememberedAs (s : LaneState) : (LaneState.free s.rememberedAs).inService = s.inService := by
  cases s <;> rfl

theorem Lane.fits_enterFree {x y : Lane} (slot : x.slot = none) (unheld : T.holds → x.hold = none)
    (state : x.state = y.state) (ready : T.service → y.state.inService = true → p.Serviceable) :
    x.enterFree.Fits T.inEmergency p l := by
  refine ⟨?_, fun e => ?_, nofun, fun e s => ready e ?_⟩
  · simp [Lane.enterFree, Lane.Shaped, slot, LaneState.occupied, LaneState.isVerifying, LaneState.canDefer]
  · simp [Lane.enterFree, Lane.HoldShaped, slot, unheld e, LaneState.admitted]
  · rw [← state, ← LaneState.inService_rememberedAs]
    exact s

theorem Wb610.Fit.freeLane (h : p.Fit T.inEmergency ∅) (l : LaneNo) : (p.freeLane l).Fit T.inEmergency ∅ := by
  have home : l ∉ (∅ : Set LaneNo) := Set.notMem_empty l
  have between := h.cancel home
  have course := p.cancel_course l
  simp only [Lane.course, Prod.mk.injEq] at course
  obtain ⟨state, -⟩ := course
  have gate := p.inCycle_cancel l
  refine between.rest.setLane (fun _ => ?_) (fun _ => rfl) fun _ _ _ _ => rfl
  refine Lane.fits_enterFree between.slot between.named state fun e s => ?_
  rw [Wb610.Serviceable, gate.clock, gate.supply]
  exact (h.lanes l home).ready e s

theorem Wb610.freeLane_lane_ne (p : Wb610) (l m : LaneNo) (h : m ≠ l) : (p.freeLane l).lane m = p.lane m := by
  rw [Wb610.freeLane, Wb610.lane_modLane_ne _ l m _ h, Wb610.releaseHold_lane_ne _ l m h, Wb610.dropQuery_lane_ne p l m h]

theorem Wb610.freeLane_isFree (p : Wb610) (l : LaneNo) : ((p.freeLane l).lane l).state.isFree = true := by
  rw [Wb610.freeLane, Wb610.lane_modLane_same]
  rfl

/-- R168: every lane FREE. -/
theorem Wb610.Fit.assertEmergency (h : p.Fit T.inEmergency ∅) (emergency : p.emergency = true) (raw : p.rawEmergency = true)
    (debounced : p.debounce = none) : p.assertEmergency.Fit T ∅ := by
  have freed := h.eachLane fun q l fit => Wb610.Fit.freeLane fit l
  have gate := p.inCycle_eachLane Wb610.inCycle_freeLane
  have free := p.lane_eachLane (P := fun x => x.state.isFree = true) Wb610.freeLane_isFree Wb610.freeLane_lane_ne
  unfold Wb610.assertEmergency
  generalize p.eachLane Wb610.freeLane = q at freed gate free
  have untold : ({ q with tally := 0 } : Wb610).standing = q.standing := rfl
  refine Wb610.Fit.report (Wb610.Fit.of_standing (freed.settledEmergency (fun m => ?_) ?_) untold) ..
  · rw [gate.emergency, emergency]
    exact free m
  · rw [gate.emergency, gate.rawEmergency, gate.debounce, emergency, raw, debounced]
    rfl

section
variable {x : Lane} {c : ClosedCause}

theorem Lane.leaveFree_of_closed (hs : x.state = .free (.wasClosed c)) :
    x.leaveFree = Lane.close c { x with rotor := x.rotor.rest } := by
  simp only [Lane.leaveFree, hs]

theorem Lane.leaveFree_of_pending (hs : x.state = .free .wasOpen) (hc : x.closePending = some c) :
    x.leaveFree = Lane.close c { x with rotor := x.rotor.rest } := by
  simp only [Lane.leaveFree, hs, hc]

theorem Lane.leaveFree_of_open (hs : x.state = .free .wasOpen) (hc : x.closePending = none) :
    x.leaveFree = Lane.enterIdle { x with rotor := x.rotor.rest } := by
  simp only [Lane.leaveFree, hs, hc]

theorem Lane.leaveFree_of_taken (taken : x.state.isFree = false) : x.leaveFree = x := by
  unfold Lane.leaveFree
  cases hs : x.state <;> simp [hs, LaneState.isFree] at taken <;> rfl

end

theorem Lane.leaveFree_kept (x : Lane) : x.leaveFree.hold = x.hold ∧ x.leaveFree.slot = x.slot := by
  unfold Lane.leaveFree
  simp only
  split
  · exact ⟨rfl, rfl⟩
  · split <;> exact ⟨rfl, rfl⟩
  all_goals exact ⟨rfl, rfl⟩

/-- R171: a lane that leaves FREE is in service only where it was. -/
theorem Wb610.Fit.leaveFree (h : p.Fit T.inEmergency ∅) (l : LaneNo) : (p.modLane l Lane.leaveFree).Fit T.inEmergency ∅ := by
  have home : l ∉ (∅ : Set LaneNo) := Set.notMem_empty l
  have fits := h.lanes l home
  by_cases free : (p.lane l).state.isFree = true
  · obtain ⟨back, hs⟩ : ∃ back, (p.lane l).state = .free back := by
      cases hs : (p.lane l).state <;> simp [hs, LaneState.isFree] at free
      exact ⟨_, rfl⟩
    have b := h.settled (l := l) (by rw [hs]; rfl) (by rw [hs]; rfl)
    have testing : (p.lane l).testRelease = none := by
      have tests := fits.shaped.2.2.2.2.1
      rw [hs] at tests
      by_contra set
      exact absurd (tests (Option.isSome_iff_ne_none.mpr set)) (by simp [LaneState.isTest])
    have closes (cause : ClosedCause) :
        (Lane.close cause { p.lane l with rotor := (p.lane l).rotor.rest }).Fits T.inEmergency p l :=
      Lane.fits_close (x := { p.lane l with rotor := (p.lane l).rotor.rest }) b.slot b.named nofun cause
    obtain ⟨hold, slot⟩ := (p.lane l).leaveFree_kept
    refine b.rest.setLane (fun _ => ?_) (fun _ => hold) fun _ _ _ _ => slot
    cases back with
    | wasClosed c =>
      rw [Lane.leaveFree_of_closed hs]
      exact closes c
    | wasOpen =>
      cases closing : (p.lane l).closePending with
      | some c =>
        rw [Lane.leaveFree_of_pending hs closing]
        exact closes c
      | none =>
        rw [Lane.leaveFree_of_open hs closing]
        have calm : p.Calm T.inEmergency := ⟨nofun, fun e => fits.ready e (by rw [hs]; rfl)⟩
        exact Lane.fits_enterIdle (x := { p.lane l with rotor := (p.lane l).rotor.rest }) b.slot b.named
          (fun e => b.flags e rfl) closing testing calm
  · refine h.setLane_same ?_
    rw [Lane.leaveFree_of_taken (by simpa using free)]

theorem Lane.leaveFree_isFree (x : Lane) : x.leaveFree.state.isFree = false := by
  unfold Lane.leaveFree
  simp only
  split
  · rfl
  · split <;> rfl
  all_goals next hs => rw [hs]; rfl

/-- R171: no lane FREE. -/
theorem Wb610.Fit.deassertEmergency (h : p.Fit T.inEmergency ∅) (emergency : p.emergency = false)
    (raw : p.rawEmergency = false) (debounced : p.debounce = none) : p.deassertEmergency.Fit T ∅ := by
  have left := h.eachLane fun q l fit => Wb610.Fit.leaveFree fit l
  have same : (p.eachLane fun q l => q.modLane l Lane.leaveFree).emergency = p.emergency :=
    p.eachLane_same Wb610.emergency fun _ _ => rfl
  have same_raw : (p.eachLane fun q l => q.modLane l Lane.leaveFree).rawEmergency = p.rawEmergency :=
    p.eachLane_same Wb610.rawEmergency fun _ _ => rfl
  have same_timer : (p.eachLane fun q l => q.modLane l Lane.leaveFree).debounce = p.debounce :=
    p.eachLane_same Wb610.debounce fun _ _ => rfl
  have taken := p.lane_eachLane (P := fun x => x.state.isFree = false)
    (act := fun q l => q.modLane l Lane.leaveFree)
    (fun q l => by rw [Wb610.lane_modLane_same]; exact Lane.leaveFree_isFree _)
    fun q l m other => q.lane_modLane_ne l m _ other
  refine Wb610.Fit.report (left.settledEmergency (fun m => ?_) ?_) ..
  · rw [same, emergency]
    exact taken m
  · rw [same, same_raw, same_timer, emergency, raw, debounced]
    rfl

theorem Wb610.Fit.debounceExpiry (h : p.Fit T ∅) : p.debounceExpiry.Fit T ∅ := by
  unfold Wb610.debounceExpiry
  split
  · exact h
  simp only
  have settled : ({ p with debounce := none, emergency := p.rawEmergency } : Wb610).Fit T.inEmergency ∅ := by
    refine ⟨fun m hm => ?_, h.messages, h.sound, h.refs, nofun⟩
    obtain ⟨shaped, held, -, ready⟩ := h.lanes m hm
    exact ⟨shaped, held, nofun, ready⟩
  split
  · next same =>
    refine ⟨fun m hm => ?_, h.messages, h.sound, h.refs, fun _ => by simp⟩
    obtain ⟨shaped, held, free, ready⟩ := h.lanes m hm
    exact ⟨shaped, held, fun e => (free e).trans same.symm, ready⟩
  split
  · next asserted => exact settled.assertEmergency asserted asserted rfl
  · next asserted =>
    rw [Bool.not_eq_true] at asserted
    exact settled.deassertEmergency asserted asserted rfl

theorem Wb610.Fit.contactChange (h : p.Fit T ∅) (isOpen : Bool) : (p.contactChange isOpen).Fit T ∅ := by
  unfold Wb610.contactChange
  split
  · exact h
  · refine ⟨fun m hm => ?_, h.messages, h.sound, h.refs, fun _ => ?_⟩
    · obtain ⟨shaped, held, free, ready⟩ := h.lanes m hm
      exact ⟨shaped, held, free, ready⟩
    · simp only
      cases isOpen <;> cases p.emergency <;> rfl

/-! ## Supply and clock (R172, R174) -/

/-- R172: a sample leaves the supply known. -/
theorem SupplyState.after_known (s : SupplyState) (sample : Nat) : s.after sample ≠ .unknown := by
  unfold SupplyState.after
  split
  · nofun
  split
  · nofun
  · cases s <;> nofun

theorem Wb610.Fit.supplySample (h : p.Fit T ∅) (sample : Nat) : (p.supplySample sample).Fit T ∅ := by
  have sampled : ({ p with supply := p.supply.after sample, lastSample := sample, sampleTimer := sampleTime } : Wb610).Fit T
      ∅ := by
    refine ⟨fun m hm => ?_, h.messages, h.sound, h.refs, h.debounced⟩
    obtain ⟨shaped, held, free, ready⟩ := h.lanes m hm
    exact ⟨shaped, held, free, fun e s => ⟨(ready e s).1, p.supply.after_known sample⟩⟩
  unfold Wb610.supplySample
  simp only
  split
  · exact sampled
  · exact sampled.report ..

theorem Wb610.Fit.clockSecond (h : p.Fit T ∅) : p.clockSecond.Fit T ∅ := by
  unfold Wb610.clockSecond
  split
  · exact h
  · exact h.clockSet _ _

/-! ## One tick (log 1) -/

theorem Lane.Fits.tick {x : Lane} (h : x.Fits T p l) : x.tick.Fits T p.tick l := by
  obtain ⟨⟨occupied, waits, defers, memory, tests, asks, query⟩, held, free, ready⟩ := h
  have state (f : LaneState → Bool) (same : ∀ s : LaneState, f s.tick = f s) : f x.tick.state = f x.state := same x.state
  refine ⟨⟨occupied.trans (state _ ?_).symm, fun set => waits (Option.isSome_map.symm.trans set),
    fun set => (state _ ?_).trans (defers set), fun set => (state _ ?_).trans (memory (Option.isSome_map.symm.trans set)),
    fun set => (state _ ?_).trans (tests (Option.isSome_map.symm.trans set)),
    Option.isSome_map.trans (asks.trans (state _ ?_).symm), fun r hr => ?_⟩, fun e => ?_, fun e => ?_, fun e s => ?_⟩
  case refine_6 =>
    obtain ⟨r', hr', rfl⟩ := Option.mem_map.mp hr
    exact query r' hr'
  case refine_7 =>
    obtain ⟨named, set, admitted, once⟩ := held e
    have same := state LaneState.admitted fun s => by cases s <;> rfl
    refine ⟨named, ?_, fun flag => same.trans (admitted flag), once⟩
    rw [same]
    simp only [Lane.tick, Option.any_map]
    exact set
  case refine_8 =>
    rw [state LaneState.isFree fun s => by cases s <;> rfl]
    exact free e
  case refine_9 =>
    rw [state LaneState.inService fun s => by cases s <;> rfl] at s
    exact ready e s
  all_goals
    intro s
    cases s <;> rfl

theorem Wb610.Fit.tick (h : p.Fit T ∅) : p.tick.Fit T ∅ where
  lanes m hm := by
    rw [Wb610.lane_tick]
    exact (h.lanes m hm).tick
  messages e := by
    obtain ⟨nodup, asked⟩ := h.messages e
    refine ⟨nodup, fun m hm => ?_⟩
    obtain ⟨r, hr, same⟩ := asked m hm
    refine ⟨{ r with deadline := r.deadline - 1 }, ?_, same⟩
    rw [Wb610.lane_tick]
    rw [Option.mem_toList] at hr ⊢
    exact Option.mem_map_of_mem _ hr
  sound := h.sound
  refs e k m := by
    rw [Wb610.lane_tick]
    exact h.refs e k m
  debounced e := (tickTimer_isSome _).trans (h.debounced e)

end

end Sys2Proof.Machine
end

