-- ==== Sys2Proof/Proofs/FitsAlways.lean ====
section
/-! Every command and every tick keeps the lanes shaped, the emergency followed, the service ready, the messages matched and
the holds matched one to one. -/

namespace Sys2Proof.Machine

section
variable {T : Terms} {p : Wb610}

/-- Every command keeps what is asked of the part. -/
theorem Wb610.Fit.after (h : p.Fit T ∅) (c : Instr) : (p.after c).Fit T ∅ := by
  cases c with
  | powerOn a b contactOpen => exact Wb610.fit_powerOn a b contactOpen
  | receiverByte b lineError => exact h.of_standing (p.receiveByte_standing b lineError)
  | gapTimeout => exact h.of_standing p.gapTimeout_standing
  | silenceTimeout => exact h.silenceTimeout nofun
  | transmitArbiter => exact h.arbiter
  | restartResponseSent => exact h.restartResponseSent
  | unknownType => exact h.serve fun q f fit => fit.of_standing rfl
  | ping => exact h.serveFixed fun q f fit => fit.respond f _ _
  | statusRead blocks => exact h.statusRead blocks
  | gateConfigure => exact h.serveFixed fun q f fit => fit.configureGate f
  | timeSet => exact h.serveFixed fun q f fit => fit.setTime f
  | laneConfigure => exact h.serveFixed fun q f fit => fit.configureLane f
  | laneOpen => exact h.serveFixed fun q f fit => fit.openLane f
  | laneClose => exact h.serveFixed fun q f fit => fit.closeRequest f
  | laneTestRelease => exact h.laneTest 1
  | laneTestSignal => exact h.laneTest 2
  | laneTestTone => exact h.laneTest 3
  | laneTestOffset => exact h.laneTest 4
  | tableLoad => exact h.serveList 0x20#8 16 32 fun tag todo => .load tag todo []
  | tableLoadRecord => exact h.tableLoadRecord
  | tableDelete => exact h.serveList 0x21#8 32 11 fun tag todo => .delete tag todo []
  | tableDeleteKey => exact h.tableDeleteKey
  | tableRevoke => exact h.serveList 0x22#8 32 11 fun tag todo => .revoke tag todo []
  | tableRevokeKey => exact h.tableRevokeKey
  | enteredElsewhere => exact h.useUpdate 1
  | passedOutElsewhere => exact h.useUpdate 2
  | tableReadByKey => exact h.serveFixed fun q f fit => fit.readByKey f
  | tableReadByBucket => exact h.serveFixed fun q f fit => fit.readByBucket f
  | bucketClear => exact h.serveFixed fun q f fit => fit.clearBucket f
  | tableClear => exact h.serveFixed fun q f fit => fit.clearTable f
  | verdict => exact h.serve fun q f fit => fit.takeVerdict f
  | remotePresent lost => exact h.serveFixed fun q f fit => fit.remotePresent lost f
  | journalRead => exact h.serveFixed fun q f fit => fit.readJournal f
  | countersReadKeep => exact h.readCounters 1
  | countersReadClear => exact h.readCounters 2
  | countersReadLane => exact h.countersReadLane
  | sweepNow => exact h.serveFixed fun q f fit => fit.sweepNow f
  | restart => exact h.serveFixed fun q f fit => fit.restart f
  | verifyDeadlineExpiry l => exact h.settleWithoutHost (Set.notMem_empty l)
  | admitWindowExpiry l lost => exact h.admitWindowExpiry lost
  | passageLimitExpiry l lost => exact h.passageLimitExpiry lost
  | refusalDisplayExpiry l lost => exact h.refusalDisplayExpiry lost
  | nextAgeExpiry l => exact h.nextAgeExpiry
  | repeatTimerExpiry l => exact h.repeatTimerExpiry
  | testReleaseExpiry l => exact h.testReleaseExpiry
  | rotorLineChange l a b lost => exact h.rotorLines a b lost
  | barcodeCharacter l c framingError lost => exact h.barcodeCharacter c framingError lost
  | pollSent => exact h.pollSent
  | busAnswer bytes lost => exact h.busBytes bytes lost
  | pollWindowExpiry => exact h.pollWindowExpiry
  | repollTimerExpiry l => exact h.repollTimerExpiry
  | sweepVisit => exact h.sweepVisit
  | fastPassVisit => exact h.fastPassVisit
  | memoryFault b values code => exact h.memoryFault b values code
  | emergencyContactChange isOpen => exact h.contactChange isOpen
  | debounceExpiry => exact h.debounceExpiry
  | supplySample sample => exact h.supplySample sample.val
  | clockSecond => exact h.clockSecond
  | tonePatternEnd l => exact h.setLane_same (l := l) rfl
  | flashPhase l => exact h.setLane_same (l := l) rfl

end

/-- Every step keeps what is asked of the part. -/
theorem step_keeps_fit (T : Terms) (s t : State) (h : step s = .next t) (fit : s.part.Fit T ∅) : t.part.Fit T ∅ :=
  step_keeps (I := fun p => p.Fit T ∅) (fun _ fit => fit.tick) (fun _ c fit => fit.after c) s t h fit

/-! ## The invariants, one by one -/

section
variable {p : Wb610}

theorem Wb610.fit_shaped : p.Fit ⟨False, False, False, False⟩ ∅ ↔ p.LanesShaped :=
  ⟨fun h m => (h.lanes m (Set.notMem_empty m)).shaped,
    fun h => ⟨fun m _ => ⟨h m, nofun, nofun, nofun⟩, nofun, nofun, nofun, nofun⟩⟩

theorem Wb610.fit_emergency : p.Fit ⟨False, False, True, False⟩ ∅ ↔ p.LanesShaped ∧ p.EmergencyFollows :=
  ⟨fun h => ⟨fun m => (h.lanes m (Set.notMem_empty m)).shaped,
      fun m => (h.lanes m (Set.notMem_empty m)).free trivial, h.debounced trivial⟩,
    fun ⟨shaped, free, debounced⟩ =>
      ⟨fun m _ => ⟨shaped m, nofun, fun _ => free m, nofun⟩, nofun, nofun, nofun, fun _ => debounced⟩⟩

theorem Wb610.fit_service : p.Fit ⟨False, False, False, True⟩ ∅ ↔ p.LanesShaped ∧ p.ServiceReady :=
  ⟨fun h => ⟨fun m => (h.lanes m (Set.notMem_empty m)).shaped, fun m => (h.lanes m (Set.notMem_empty m)).ready trivial⟩,
    fun ⟨shaped, ready⟩ => ⟨fun m _ => ⟨shaped m, nofun, nofun, fun _ => ready m⟩, nofun, nofun, nofun, nofun⟩⟩

theorem Wb610.fit_messages : p.Fit ⟨True, False, False, False⟩ ∅ ↔ p.LanesShaped ∧ p.MessagesMatch :=
  ⟨fun h => ⟨fun m => (h.lanes m (Set.notMem_empty m)).shaped, h.messages trivial⟩,
    fun ⟨shaped, messages⟩ => ⟨fun m _ => ⟨shaped m, nofun, nofun, nofun⟩, fun _ => messages, nofun, nofun, nofun⟩⟩

/-- Settles O57, each part by what is asked of it (`step_keeps_fit`). -/
theorem lanesStayShaped : Obligations.LanesStayShaped := by
  refine ⟨fun s t h shaped => ?_, fun s t h shaped emergency => ?_, fun s t h shaped service => ?_,
    fun s t h shaped messages => ?_⟩
  · exact Wb610.fit_shaped.mp (step_keeps_fit _ s t h (Wb610.fit_shaped.mpr shaped))
  · exact (Wb610.fit_emergency.mp (step_keeps_fit _ s t h (Wb610.fit_emergency.mpr ⟨shaped, emergency⟩))).2
  · exact (Wb610.fit_service.mp (step_keeps_fit _ s t h (Wb610.fit_service.mpr ⟨shaped, service⟩))).2
  · exact (Wb610.fit_messages.mp (step_keeps_fit _ s t h (Wb610.fit_messages.mpr ⟨shaped, messages⟩))).2

/-! ## The holds (R10) -/

/-- In a sound table a listed entry is the one its key finds. -/
theorem Table.find_of_listed {t : Table} (s : t.Sound) {r : Nat × Bucket} (hr : r ∈ t.buckets) {e : Entry}
    (he : e ∈ r.2.entries) : t.find e.key = some e := by
  obtain ⟨-, home, nodup⟩ := s.2.1 r hr
  have listed : t.bucket (bucketOf e.key) = r.2 := by
    rw [home e he]
    exact bucketAt_of_mem s.1 hr
  rw [Table.find, listed]
  have some_found : (r.2.entries.find? fun x => decide (x.key = e.key)).isSome = true :=
    List.find?_isSome.mpr ⟨e, he, by simp⟩
  obtain ⟨x, hx⟩ := Option.isSome_iff_exists.mp some_found
  rw [hx, List.inj_on_of_nodup_map nodup (List.mem_of_find?_eq_some hx) he (key_of_find? hx)]

/-- A found entry is a listed one. -/
theorem Table.listed_of_find {t : Table} {k : Key} {e : Entry} (h : t.find k = some e) :
    ∃ r ∈ t.buckets, e ∈ r.2.entries := Table.mem_bucket_listed (Table.find_mem h)

/-- R10: the table's holds and the lanes' hold references match one to one exactly where each names the other. -/
theorem Wb610.refsMatch_iff (s : p.table.Sound) :
    p.RefsMatch ↔
      (∀ r ∈ p.table.buckets, ∀ e ∈ r.2.entries, ∀ h ∈ e.state.hold, (p.lane h.lane).hold = some e.key)
        ∧ ∀ l, ∀ k ∈ (p.lane l).hold, p.HoldStands l k := by
  constructor
  · refine fun refs => ⟨fun r hr e he h hh => ?_, fun l k hk => ?_⟩
    · refine (refs e.key h.lane).mp ?_
      rw [Table.holder_of_find (Table.find_of_listed s hr he), Entry.holdLane, hh]
      rfl
    · obtain ⟨e, hold, found, held, lane⟩ := Table.find_of_holder ((refs k l).mpr hk)
      exact ⟨e, by rw [found]; simp, hold, by rw [held]; simp, lane⟩
  · rintro ⟨named, stands⟩ k l
    constructor
    · intro holder
      obtain ⟨e, hold, found, held, lane⟩ := Table.find_of_holder holder
      obtain ⟨r, hr, he⟩ := Table.listed_of_find found
      have at_lane := named r hr e he hold held
      rw [lane, Table.key_of_find found] at at_lane
      exact at_lane
    · intro hold
      obtain ⟨e, found, r, held, lane⟩ := stands l k hold
      rw [Option.mem_toList] at found held
      rw [Table.holder_of_find found, Entry.holdLane, held]
      exact congrArg some lane

theorem Wb610.fit_holds : p.Fit ⟨False, True, False, False⟩ ∅ ↔ p.AdmissionsSound := by
  constructor
  · intro h
    have sound := h.sound trivial
    obtain ⟨named, stands⟩ := (Wb610.refsMatch_iff sound).mp (h.refs trivial)
    refine ⟨sound, fun m => (h.lanes m (Set.notMem_empty m)).shaped, named, fun l => ?_⟩
    obtain ⟨current, rest⟩ := (h.lanes l (Set.notMem_empty l)).held trivial
    exact ⟨fun k hk => ⟨stands l k hk, current k hk⟩, rest⟩
  · rintro ⟨sound, shaped, named, lanes⟩
    refine ⟨fun m _ => ⟨shaped m, fun _ => ?_, nofun, nofun⟩, nofun, fun _ => sound, fun _ => ?_, nofun⟩
    · obtain ⟨both, rest⟩ := lanes m
      exact ⟨fun k hk => (both k hk).2, rest⟩
    · exact (Wb610.refsMatch_iff sound).mpr ⟨named, fun l k hk => ((lanes l).1 k hk).1⟩

/-- Settles O59, by what every step keeps (`step_keeps_fit`) and the two ways to say that holds match
(`Wb610.refsMatch_iff`). -/
theorem holdsAlwaysMatch : Obligations.HoldsAlwaysMatch := fun s t h sound =>
  Wb610.fit_holds.mp (step_keeps_fit _ s t h (Wb610.fit_holds.mpr sound))

end

end Sys2Proof.Machine
end

