-- ==== Sys2Proof/Proofs/PowerOnValues.lean ====
section
/-! Power-on: the values of reset, POWER_ON in any state, and the invariants that hold from the start (R177). -/

namespace Sys2Proof.Machine

theorem Wb610.lane_reset (l : LaneNo) : State.reset.part.lane l = Lane.powerOn false false := by
  fin_cases l <;> rfl

/-- Settles O4: field by field, every lane by `Wb610.lane_reset`. -/
theorem resetHoldsPowerOnValues : Obligations.ResetHoldsPowerOnValues := by
  refine ⟨rfl, rfl, fun _ => rfl, rfl, rfl, fun l => ?_, ?_⟩
  · simp only [Wb610.lane_reset]
    exact ⟨rfl, rfl, rfl, rfl, rfl, rfl, rfl, rfl, rfl, rfl, rfl, rfl, rfl, rfl, rfl, rfl, rfl, rfl, rfl, rfl, rfl⟩
  · exact ⟨rfl, rfl, rfl, rfl, rfl, rfl, rfl, rfl, rfl, rfl, rfl, rfl, rfl, rfl, rfl, rfl, rfl, rfl, rfl, rfl, rfl, rfl,
      rfl, rfl, rfl⟩

/-- Settles O5: the lanes of POWER_ON by `Wb610.lane_powerOn`. -/
theorem powerOnTakesLinesAndContact : Obligations.PowerOnTakesLinesAndContact := by
  intro a b isOpen s
  refine ⟨.powerOn a b isOpen, rfl, rfl, ?_, rfl, fun l => ?_⟩
  · cases isOpen <;> rfl
  · rw [Wb610.lane_powerOn, Wb610.lane_reset]
    exact ⟨rfl, rfl, rfl, rfl, rfl, rfl, rfl⟩

/-- Settles O60, by what power-on keeps whatever stood before (`Wb610.fit_powerOn`). -/
theorem resetMeetsEveryInvariant : Obligations.ResetMeetsEveryInvariant :=
  ⟨Wb610.powerOn_outputs 0 0 false, Table.codesAgree_empty, (Wb610.fit_emergency.mp (Wb610.fit_powerOn 0 0 false)).2,
    (Wb610.fit_service.mp (Wb610.fit_powerOn 0 0 false)).2, (Wb610.fit_messages.mp (Wb610.fit_powerOn 0 0 false)).2,
    Wb610.powerOn_queues 0 0 false, Wb610.powerOn_handler 0 0 false, Wb610.powerOn_journal 0 0 false,
    Wb610.powerOn_inRange 0 0 false, Wb610.powerOn_sweep 0 0 false, Wb610.powerOn_poll 0 0 false,
    Wb610.fit_holds.mp (Wb610.fit_powerOn 0 0 false)⟩

/-- Settles O8, by whether the queue has room (`Wb610.placeReport_of_room`, `Wb610.placeReport_of_full`). -/
theorem reportJoinsOrIsCounted : Obligations.ReportJoinsOrIsCounted := by
  intro p kind lane reason count key
  exact ⟨rfl, fun room => p.placeReport_of_room _ room, fun full => p.placeReport_of_full _ full⟩

end Sys2Proof.Machine
end

