-- ==== Sys2Proof/Proofs/LaneOutputs.lean ====
section
/-! A lane written, its outputs following (R98, R158, R159, R161); the hold cycle of one entry (R23-R26). -/

namespace Sys2Proof.Machine

/-! ## The outputs of a lane -/

theorem Lane.sync_flash (x : Lane) :
    x.sync.signals.flash
      = if x.sync.signals.shown = x.signals.shown then x.signals.flash
        else if x.sync.signals.shown = .wait ∨ x.sync.signals.shown = .free then some { lit := true, left := 256000 }
        else none := by
  rw [Lane.sync_shown, Lane.sync, SignalUnit.display]
  by_cases same : x.signals.shown = signalFor x.signals.commanded x.state
  · rw [if_pos same, if_pos same.symm]
  · rw [if_neg same, if_neg (Ne.symm same)]
    cases signalFor x.signals.commanded x.state <;> rfl

/-- What the tone pattern gives, as a table over the ticks since it began. -/
theorem SignalUnit.sounder_of_tone {u : SignalUnit} {t : Tone} {n : Nat} (hn : n ≤ t.length)
    (hu : u.tone = some { pattern := t, left := t.length - n }) :
    u.sounder
      = (t.bursts.find? fun b => decide (b.start ≤ n) && decide (n < b.stop)).map fun b => (b.pitch, b.level) := by
  have progress : Playing.progress { pattern := t, left := t.length - n } = n := Nat.sub_sub_self hn
  simp only [SignalUnit.sounder, hu, Option.bind_some, progress]

/-- One burst: heard within it, and what the bursts behind it give outside. -/
theorem sounder_burst (b : Burst) (rest : List Burst) (n : Nat) :
    ((b :: rest).find? fun b => decide (b.start ≤ n) && decide (n < b.stop)).map (fun b => (b.pitch, b.level))
      = if b.start ≤ n ∧ n < b.stop then some (b.pitch, b.level)
        else (rest.find? fun b => decide (b.start ≤ n) && decide (n < b.stop)).map fun b => (b.pitch, b.level) := by
  by_cases h : b.start ≤ n ∧ n < b.stop
  · simp [h]
  · rw [if_neg h, List.find?_cons_of_neg (by simpa using h)]

/-- The bursts of ATTENTION are the first halves of the six cycles it lasts. -/
theorem attention_bursts (n : Nat) :
    (Tone.attention.bursts.find? fun b => decide (b.start ≤ n) && decide (n < b.stop)).map (fun b => (b.pitch, b.level))
      = if n < 1536000 ∧ n % 256000 < 128000 then some (.high, .full) else none := by
  simp only [Tone.bursts, sounder_burst, List.find?_nil, Option.map_none, ms, Ticks]
  split_ifs <;> first | rfl | omega

/-- Settles O7. -/
theorem laneWriteSetsOutputs : Obligations.LaneWriteSetsOutputs := by
  refine ⟨fun p l x => ?_, fun u => ?_, fun u => ⟨fun t => by cases t <;> rfl, fun h => ?_, fun t n hn hu => ?_⟩⟩
  · have written : (p.setLane l x).lane l = x.sync := p.lane_setLane_same l x
    simp only [written]
    refine ⟨?_, ?_, Lane.sync_flash x, by simp, by simp, rfl, fun m hm => p.lane_setLane_ne l m x hm, rfl⟩
    · rw [Lane.sync_lockOn]
      cases x.state <;> simp [lockFor]
    · rw [Lane.sync_shown]
      cases x.state <;> rfl
  · refine ⟨fun h => ?_, fun h => ?_, fun h => ?_, fun f hf => ⟨fun h => ?_, fun h => ?_⟩⟩ <;>
      simp [SignalUnit.lamps, *]
  · simp [SignalUnit.sounder, h]
  · cases t with
    | accept =>
      rw [SignalUnit.sounder_of_tone hn hu]
      simp [Tone.bursts, ms]
    | refuse =>
      rw [SignalUnit.sounder_of_tone hn hu]
      simp [Tone.bursts, sounder_burst, ms]
    | error =>
      rw [SignalUnit.sounder_of_tone hn hu]
      simp [Tone.bursts, ms]
    | attention => rw [SignalUnit.sounder_of_tone hn hu, attention_bursts]

/-! ## The hold cycle -/

theorem lessOne_val (n : Fin 16) : (lessOne n).val = n.val - 1 := rfl

/-- Settles O20. -/
theorem holdCycleOfAnEntry : Obligations.HoldCycleOfAnEntry := by
  refine ⟨fun e l purpose prior hs => ?_, fun e h now window hs => ⟨?_, ?_, ?_, ?_, ?_⟩⟩
  · cases prior <;> simp_all [Entry.takeHold, EntryState.prior]
  · intro hp
    simp [Entry.commit, hs, hp]
  · intro hp
    simp [Entry.commit, hs, hp, lessOne_val]
  · intro hr
    simp [Entry.release, hs, hr]
  · intro hr hm
    simp [Entry.release, hs, hr, hm]
  · intro hr hm
    simp only [Entry.release, hs, hr, hm, Bool.false_eq_true, if_false]
    cases h.prior <;> rfl

end Sys2Proof.Machine
end

