-- ==== Sys2Proof/Proofs/GateClock.lean ====
section
/-! The supply monitor and the event clock (R172-R174). -/

namespace Sys2Proof.Machine

/-- Settles O50: the supply by the state before it, the clock by whether it is set. -/
theorem supplyAndClockFollowTheirTables : Obligations.SupplyAndClockFollowTheirTables := by
  refine ⟨fun s n => ?_, fun s => ⟨fun h => ?_, fun c h => ?_⟩⟩
  · have table : (match s.part.supply with
        | .unknown => if n.val < 185 then SupplyState.low else .good
        | .good => if n.val < 180 then .low else .good
        | .low => if n.val < 185 then .low else .good) = s.part.supply.after n.val := by
      unfold SupplyState.after
      cases s.part.supply <;> (dsimp only; split_ifs <;> first | rfl | omega)
    have code : (s.part.supply.after n.val).code = if s.part.supply.after n.val = .good then 1 else 2 := by
      have known := SupplyState.after_known s.part.supply n.val
      cases hs : s.part.supply.after n.val <;> simp_all [SupplyState.code]
    intro p new sampled
    have hnew : new = p.supply.after n.val := table
    clear_value new
    subst hnew
    rw [← code]
    rfl
  · have : s.part.clockSecond = s.part := by simp [Wb610.clockSecond, h]
    change s.act Wb610.clockSecond = _
    rw [State.act_eq, this]
  · have : s.part.clockSecond
        = { s.part with clock := some (if c < 259199 then c + 1 else c), secondTimer := some 512000 } := by
      simp only [Wb610.clockSecond, h]
      rfl
    change s.act Wb610.clockSecond = _
    rw [State.act_eq, this]

end Sys2Proof.Machine
end

