-- ==== Sys2Proof/Proofs/Judgements.lean ====
section
/-! The judgement of a presentation, its checks in order (R33-R46). -/

namespace Sys2Proof.Machine

section
variable {view : GateView} {c : LaneConfig} {t : Table} {q : Presentation} {e : Entry}

/-! ## The steps before the entry -/

theorem Presentation.badCheckDigit_of_right (h : ∀ d, q.source = .barcode d → d = checkDigitOf q.key.bytes.toNat) :
    q.badCheckDigit = false := by
  unfold Presentation.badCheckDigit
  split
  · next d hd => simp [h d hd]
  · rfl
  · rfl

theorem judge_of_early (hs : view.supply = .good)
    (hd : ∀ d, q.source = .barcode d → d = checkDigitOf q.key.bytes.toNat) :
    judge view c t q = judgeKey view c t q.key := by
  simp [judge, hs, Presentation.badCheckDigit_of_right hd]

theorem judge_of_found (hs : view.supply = .good)
    (hd : ∀ d, q.source = .barcode d → d = checkDigitOf q.key.bytes.toNat)
    (hb : (t.bucket (bucketOf q.key)).suspect = false) (hf : t.find q.key = some e) :
    judge view c t q = judgeEntry view c e := by
  simp [judge_of_early hs hd, judgeKey, hb, hf]

/-! ## The steps at the entry -/

/-- The states that steps 6 to 8 let through. -/
theorem EntryState.passes_cases {st : EntryState} (hh : st.hold = none) (hv : st ≠ .void) (hp : st ≠ .spent) :
    st = .outside ∨ st = .inside ∨ ∃ x, st = .outOnPassout x := by
  cases st <;> simp_all [EntryState.hold]

theorem judgeEntry_of_window_refused {r : Reason} (hh : e.state.hold = none) (hv : e.state ≠ .void)
    (hp : e.state ≠ .spent) (hg : e.groups.getLsbD c.group.val = true) (hd : c.direction = .entry)
    (hw : windowRefusal e.window view.clock = some r) : judgeEntry view c e = .refuse r := by
  rcases EntryState.passes_cases hh hv hp with hst | hst | ⟨x, hst⟩ <;>
    simp only [judgeEntry, hst, hg, hd, hw, Bool.not_true, Bool.false_eq_true, if_false]

theorem judgeEntry_of_window (hh : e.state.hold = none) (hv : e.state ≠ .void) (hp : e.state ≠ .spent)
    (hg : e.groups.getLsbD c.group.val = true) (hd : c.direction = .entry)
    (hw : windowRefusal e.window view.clock = none) : judgeEntry view c e = judgeEntryState view e := by
  rcases EntryState.passes_cases hh hv hp with hst | hst | ⟨x, hst⟩ <;>
    simp only [judgeEntry, hst, hg, hd, hw, Bool.not_true, Bool.false_eq_true, if_false]

theorem judgeEntry_of_exit (hh : e.state.hold = none) (hv : e.state ≠ .void) (hp : e.state ≠ .spent)
    (hg : e.groups.getLsbD c.group.val = true) (hd : c.direction = .exit) : judgeEntry view c e = judgeExitState e := by
  rcases EntryState.passes_cases hh hv hp with hst | hst | ⟨x, hst⟩ <;>
    simp only [judgeEntry, hst, hg, hd, Bool.not_true, Bool.false_eq_true, if_false]

theorem judgeEntry_of_other_group (hh : e.state.hold = none) (hv : e.state ≠ .void) (hp : e.state ≠ .spent)
    (hg : e.groups.getLsbD c.group.val = false) : judgeEntry view c e = .refuse .wrongEntrance := by
  rcases EntryState.passes_cases hh hv hp with hst | hst | ⟨x, hst⟩ <;>
    simp only [judgeEntry, hst, hg, Bool.not_false, if_true]

theorem windowRefusal_of_early {w : Window} {now : Nat} (h : now / 60 < w.fromMinute) :
    windowRefusal (some w) (some now) = some .tooEarly := by
  simp [windowRefusal, h]

theorem windowRefusal_of_late {w : Window} {now : Nat} (hf : w.fromMinute ≤ now / 60) (h : w.untilMinute < now / 60) :
    windowRefusal (some w) (some now) = some .tooLate := by
  simp [windowRefusal, h, Nat.not_lt.mpr hf]

theorem windowRefusal_of_within {o : Option Window} {now : Nat}
    (h : ∀ w, o = some w → w.fromMinute ≤ now / 60 ∧ now / 60 ≤ w.untilMinute) :
    windowRefusal o (some now) = none := by
  cases o with
  | none => rfl
  | some w =>
    obtain ⟨from_le, le_until⟩ := h w rfl
    simp [windowRefusal, Nat.not_lt.mpr from_le, Nat.not_lt.mpr le_until]

theorem judgeCandidate_eq (verify : Bool) :
    judgeCandidate view verify
      = if verify = false then .admitHolder .entry false
        else if view.online = true then .verifyFlagged
        else if view.policy = .admitLocal then .admitHolder .entry true
        else .refuse .offline := by
  cases verify
  · rfl
  · cases hp : view.policy <;> simp [judgeCandidate, hp]

end

/-- Settles O17. -/
theorem entryLaneJudgesWindowThenState : Obligations.EntryLaneJudgesWindowThenState := by
  intro view c t q e clock hs hd hb hf hdir hclock hg hh hv hp
  have refused {r : Reason} (hw : windowRefusal e.window (some clock) = some r) : judge view c t q = .refuse r := by
    rw [judge_of_found hs hd hb hf, judgeEntry_of_window_refused hh hv hp hg hdir (hclock ▸ hw)]
  refine ⟨fun w hw early => refused (hw ▸ windowRefusal_of_early early),
    fun w hw started late => refused (hw ▸ windowRefusal_of_late started late), fun within => ?_⟩
  have judged : judge view c t q = judgeEntryState view e := by
    rw [judge_of_found hs hd hb hf,
      judgeEntry_of_window hh hv hp hg hdir (hclock ▸ windowRefusal_of_within within)]
  refine ⟨fun hst => ?_, fun x hst hx => ?_, ?_⟩
  · rw [judged]
    simp [judgeEntryState, hst]
  · rw [judged]
    simp [judgeEntryState, hst, Entry.expired, hclock, hx]
  · rintro (hst | ⟨x, hst, hx⟩)
    · rw [judged, ← judgeCandidate_eq]
      simp [judgeEntryState, hst]
    · rw [judged, ← judgeCandidate_eq]
      simp [judgeEntryState, hst, Entry.expired, hclock, Nat.not_le.mpr hx]

/-- Settles O18. -/
theorem exitLaneJudgesStateAndPassouts : Obligations.ExitLaneJudgesStateAndPassouts := by
  intro view c t q e hs hd hb hf hdir hg
  have judged (hh : e.state.hold = none) (hv : e.state ≠ .void) (hp : e.state ≠ .spent) :
      judge view c t q = judgeExitState e := by
    rw [judge_of_found hs hd hb hf, judgeEntry_of_exit hh hv hp hg hdir]
  refine ⟨fun hst left => ?_, fun hst gone => ?_, fun hst => ?_, fun x hst => ?_⟩ <;>
    rw [judged (by simp [hst, EntryState.hold]) (by simp [hst]) (by simp [hst])]
  · simp [judgeExitState, hst, Nat.one_le_iff_ne_zero.mp left]
  · simp [judgeExitState, hst, gone]
  · simp [judgeExitState, hst]
  · simp [judgeExitState, hst]

/-! ## The check digit -/

theorem weightedSum_zero (fuel w : Nat) : weightedSum fuel 0 w = 0 := by
  induction fuel generalizing w with
  | zero => rfl
  | succ fuel ih => simp [weightedSum, ih]

/-- R35: the weight of the digit at a place counted from the right, beginning with 0. -/
def digitWeight (place : Nat) : Nat := if place % 2 = 0 then 3 else 1

theorem digitWeight_succ (place : Nat) : digitWeight (place + 1) = 4 - digitWeight place := by
  unfold digitWeight
  split_ifs <;> omega

/-- The weighted sum of a number is that of its decimal digits, given from the right. -/
theorem weightedSum_digits (digits : List Nat) (place fuel : Nat) (hd : ∀ d ∈ digits, d ≤ 9)
    (hfuel : digits.length ≤ fuel) :
    weightedSum fuel (digits.foldr (fun d n => 10 * n + d) 0) (digitWeight place)
      = ((digits.zipIdx place).map fun d => d.1 * digitWeight d.2).sum := by
  induction digits generalizing place fuel with
  | nil => simp [weightedSum_zero]
  | cons d rest ih =>
    obtain ⟨small, hrest⟩ := List.forall_mem_cons.mp hd
    obtain ⟨fuel, rfl⟩ : ∃ k, fuel = k + 1 := Nat.exists_eq_add_one.mpr (by simp at hfuel; omega)
    have tail := ih (place + 1) fuel hrest (by simpa using hfuel)
    have last : (10 * rest.foldr (fun d n => 10 * n + d) 0 + d) % 10 = d := by omega
    have front : (10 * rest.foldr (fun d n => 10 * n + d) 0 + d) / 10 = rest.foldr (fun d n => 10 * n + d) 0 := by
      omega
    rw [digitWeight_succ] at tail
    simp only [List.foldr_cons, weightedSum, last, front, tail, List.zipIdx_cons, List.map_cons, List.sum_cons]

/-- Settles O16. -/
theorem earlyStepsOfJudgement : Obligations.EarlyStepsOfJudgement := by
  refine ⟨⟨fun view c t q => ⟨fun hs => ?_, fun d hs hq hd => ?_⟩, fun view c t q hs hd => ⟨fun hb => ?_, fun hb hf => ?_⟩,
    fun view c t q e hs hd hb hf => ⟨fun h hst => ?_, fun hst => ?_, fun hst => ?_, fun hh hv hp hg => ?_⟩⟩, ?_⟩
  · simp [judge, hs]
  · simp [judge, hs, Presentation.badCheckDigit, hq, hd]
  · rw [judge_of_early hs hd]
    simp only [judgeKey, hb, if_true]
    rfl
  · rw [judge_of_early hs hd]
    simp only [judgeKey, hb, hf, Bool.false_eq_true, if_false]
    rfl
  · simp [judge_of_found hs hd hb hf, judgeEntry, hst]
  · simp [judge_of_found hs hd hb hf, judgeEntry, hst]
  · simp [judge_of_found hs hd hb hf, judgeEntry, hst]
  · rw [judge_of_found hs hd hb hf, judgeEntry_of_other_group hh hv hp hg]
  · intro digits hd hlen
    have sum := weightedSum_digits digits.reverse 0 20 (fun d h => hd d (List.mem_reverse.mp h))
      (by rw [List.length_reverse]; omega)
    rw [List.foldl_eq_foldr_reverse, checkDigitOf]
    exact congrArg (fun n => (10 - n % 10) % 10) sum

end Sys2Proof.Machine
end

