-- ==== Sys2Proof/Proofs/SettingsClock.lean ====
section
/-! GATE CONFIGURE and TIME SET (R175, R191); COUNTERS READ (R154, R155). -/

namespace Sys2Proof.Machine

/-! ## GATE CONFIGURE -/

theorem policyOf_toNat (b : Byte) :
    policyOf b.toNat = if b = 1 then some .admitLocal else if b = 2 then some .refuse else none := by
  revert b
  decide

/-- The ranges of R191 over the bytes of a payload; the two-byte fields given as numbers. -/
def settingsInRange (b0 b1 b2 b3 b4 b7 b8 b11 : Byte) (deadline period : Nat) : Prop :=
  (2 ≤ b0.toNat ∧ b0.toNat ≤ 30) ∧ (5 ≤ b1.toNat ∧ b1.toNat ≤ 50) ∧ (5 ≤ b2.toNat ∧ b2.toNat ≤ 60)
    ∧ (5 ≤ b3.toNat ∧ b3.toNat ≤ 100) ∧ (2 ≤ b4.toNat ∧ b4.toNat ≤ 20) ∧ (200 ≤ deadline ∧ deadline ≤ 3000)
    ∧ (1 ≤ b7.toNat ∧ b7.toNat ≤ 60) ∧ (5 ≤ b8.toNat ∧ b8.toNat ≤ 240) ∧ (4 ≤ period ∧ period ≤ 256)
    ∧ (b11 = 1 ∨ b11 = 2)

section
variable {b0 b1 b2 b3 b4 b5 b6 b7 b8 b9 b10 b11 : Byte}

theorem settingsOf_of_range
    (h : settingsInRange b0 b1 b2 b3 b4 b7 b8 b11 (256 * b5.toNat + b6.toNat) (256 * b9.toNat + b10.toNat)) :
    settingsOf [b0, b1, b2, b3, b4, b5, b6, b7, b8, b9, b10, b11]
      = some
          { admitWindow := b0.toNat, refusalDisplay := b1.toNat, passageLimit := b2.toNat,
            repeatWindow := b3.toNat, ageLimit := b4.toNat, verifyDeadline := 256 * b5.toNat + b6.toNat,
            silenceTimeout := b7.toNat, passoutWindow := b8.toNat, sweepPeriod := 256 * b9.toNat + b10.toNat,
            offlinePolicy := if b11 = 1 then .admitLocal else .refuse } := by
  obtain ⟨h0, h1, h2, h3, h4, h5, h7, h8, h9, h11⟩ := h
  have policy : policyOf b11.toNat = some (if b11 = 1 then .admitLocal else .refuse) := by
    rw [policyOf_toNat]
    rcases h11 with rfl | rfl <;> rfl
  simp [settingsOf, byteAt, fieldAt, beNat, beNatFrom, policy, inRange, h0, h1, h2, h3, h4, h5, h7, h8, h9]

theorem settingsOf_of_out_of_range
    (h : ¬ settingsInRange b0 b1 b2 b3 b4 b7 b8 b11 (256 * b5.toNat + b6.toNat) (256 * b9.toNat + b10.toNat)) :
    settingsOf [b0, b1, b2, b3, b4, b5, b6, b7, b8, b9, b10, b11] = none := by
  cases hp : policyOf b11.toNat with
  | none => simp [settingsOf, byteAt, fieldAt, beNat, beNatFrom, hp]
  | some policy =>
    have listed : b11 = 1 ∨ b11 = 2 := by
      rw [policyOf_toNat] at hp
      by_contra other
      obtain ⟨not_one, not_two⟩ := not_or.mp other
      rw [if_neg not_one, if_neg not_two] at hp
      cases hp
    simp only [settingsInRange, listed, and_true] at h
    simp only [settingsOf, byteAt, fieldAt, beNat, beNatFrom, List.drop_zero, List.drop_succ_cons, List.take_succ_cons,
      List.take_zero, hp, Option.bind_eq_bind, Option.bind_some, inRange, Nat.mul_zero, Nat.zero_add]
    rw [if_neg]
    simpa [and_assoc] using h

end

theorem Wb610.configureGate_of_valid (p : Wb610) {f : Frame} {c : Settings} (h : settingsOf f.payload = some c) :
    p.configureGate f = { p with settings := c }.respond f .ok [] := by
  simp [Wb610.configureGate, h]

theorem Wb610.configureGate_of_invalid (p : Wb610) {f : Frame} (h : settingsOf f.payload = none) :
    p.configureGate f = p.respond f .badValue [] := by
  simp [Wb610.configureGate, h]

theorem exec_gateConfigure (s : State) :
    exec .gateConfigure s = s.act fun p => p.serveFixed 0x03#8 12 Wb610.configureGate := rfl

/-! ## TIME SET -/

theorem exec_timeSet (s : State) : exec .timeSet s = s.act fun p => p.serveFixed 0x04#8 4 Wb610.setTime := rfl

theorem fieldAt_four_bytes (b0 b1 b2 b3 : Byte) :
    fieldAt [b0, b1, b2, b3] 0 4 = ((b0.toNat * 256 + b1.toNat) * 256 + b2.toNat) * 256 + b3.toNat := by
  simp [fieldAt, beNat, beNatFrom, Nat.mul_comm]

theorem Wb610.setTime_of_le (p : Wb610) {f : Frame} (h : fieldAt f.payload 0 4 ≤ 259199) :
    p.setTime f
      = { p with clock := some (fieldAt f.payload 0 4), secondTimer := some 512000 }.respond f .ok
          (beBytes 4 (p.clock.getD 0xFFFFFFFF)) :=
  if_pos h

theorem Wb610.setTime_of_gt (p : Wb610) {f : Frame} (h : 259199 < fieldAt f.payload 0 4) :
    p.setTime f = p.respond f .badValue [] :=
  if_neg (Nat.not_le.mpr h)

/-- Settles O12: GATE CONFIGURE by whether the settings are in range, TIME SET by whether the value is. -/
theorem settingsAndClockAreSet : Obligations.SettingsAndClockAreSet := by
  refine ⟨?_, ?_⟩
  · intro s f rest b0 b1 b2 b3 b4 b5 b6 b7 b8 b9 b10 b11 taken htype hp deadline period
    rw [exec_gateConfigure]
    by_cases range : settingsInRange b0 b1 b2 b3 b4 b7 b8 b11 deadline period
    · refine Eq.trans ?_ (if_pos range).symm
      exact taken.act_serveFixed (code := .ok) htype (by rw [hp]; rfl) _ (by rfl)
        (Wb610.configureGate_of_valid _ (hp ▸ settingsOf_of_range range))
    · refine Eq.trans ?_ (if_neg range).symm
      exact taken.act_serveFixed (code := .badValue) htype (by rw [hp]; rfl) _ (by rfl)
        (Wb610.configureGate_of_invalid _ (hp ▸ settingsOf_of_out_of_range range))
  · intro s f rest b0 b1 b2 b3 taken htype hp value
    have field : fieldAt f.payload 0 4 = value := by rw [hp, fieldAt_four_bytes]
    rw [exec_timeSet, ← field]
    exact ⟨fun h => taken.act_serveFixed (code := .ok) htype (by rw [hp]; rfl) _ (by rfl)
        (Wb610.setTime_of_le _ h),
      fun h => taken.act_serveFixed (code := .badValue) htype (by rw [hp]; rfl) _ (by rfl)
        (Wb610.setTime_of_gt _ h)⟩

/-! ## COUNTERS READ -/

section
variable {s : State} {f : Frame} {rest : List Frame} {n : Byte}

theorem servesCounters_of_option {option : Nat} (htype : f.type = 0x41#8) (hp : f.payload = [n])
    (hn : n.toNat = option ∨ inRange 1 2 n.toNat = false) : servesCounters option f = true := by
  simpa [servesCounters, htype, hp, byteAt_head] using hn

/-- R154: the request begun, its ten operations to come. -/
theorem exec_readCounters_of_option {option : Nat} (taken : s.Takes f rest) (htype : f.type = 0x41#8)
    (hp : f.payload = [n]) (hn : n.toNat = option) (listed : inRange 1 2 option = true) :
    s.act (fun p => p.readCounters option)
      = .next { s with
          part :=
            { s.part with rxBuffer := rest, request := some (.counters f.tag (decide (option = 2)) laneNos [n]) } } := by
  subst hn
  have byte_n : byte n.toNat = n := by simp [byte]
  rw [State.act_eq, Wb610.readCounters, taken.serve _ (servesCounters_of_option htype hp (.inl rfl))]
  simp [hp, byteAt_head, listed, byte_n]

theorem exec_readCounters_of_unlisted {option : Nat} (taken : s.Takes f rest) (htype : f.type = 0x41#8)
    (hp : f.payload = [n]) (unlisted : inRange 1 2 n.toNat = false) :
    s.act (fun p => p.readCounters option) = .next (s.answered rest s.part (f.reply 2 [])) := by
  rw [State.act_eq, Wb610.readCounters, taken.serve _ (servesCounters_of_option htype hp (.inr unlisted))]
  simp only [hp, byteAt_head, unlisted, List.length_singleton, ne_eq, not_true_eq_false, if_false,
    Bool.false_eq_true]
  rfl

end

theorem Wb610.continueCounters_eq (p : Wb610) (tag : Byte) (clear : Bool) (todo : List LaneNo) (values : List Byte) :
    p.continueCounters tag clear todo values
      = if todo = [] then
          { p with
            request := none
            responses := p.responses ++ [{ type := 0xC1#8, tag := tag, payload := 0 :: values }] }
        else { p with request := some (.counters tag clear todo values) } := by
  cases todo <;> rfl

/-- R155: the operation at one lane, its counters written back as they are kept. -/
theorem Wb610.countersReadLane_of_lane {p : Wb610} {tag : Byte} {clear : Bool} {l : LaneNo} {todo : List LaneNo}
    {values : List Byte} (h : p.request = some (.counters tag clear (l :: todo) values))
    (follows : (p.lane l).OutputsFollow) :
    p.countersReadLane
      = (p.setLane l { p.lane l with
            counters := if clear then ⟨0, 0, 0, 0, 0, 0⟩ else (p.lane l).counters }).continueCounters tag clear todo
          (values ++ (p.lane l).counters.fields) := by
  cases clear with
  | true => simp only [Wb610.countersReadLane, h, if_true]; rfl
  | false =>
    have kept : p.setLane l { p.lane l with counters := (p.lane l).counters } = p := p.setLane_self l follows
    simp only [Wb610.countersReadLane, h, Bool.false_eq_true, if_false, kept]

/-- Settles O14: the option taken, then the operation at each lane. -/
theorem countersReadLaneByLane : Obligations.CountersReadLaneByLane := by
  refine ⟨fun s f rest n taken htype hp => ⟨fun hn => ?_, fun hn => ?_, fun h1 h2 => ?_⟩, ?_⟩
  · subst hn
    exact exec_readCounters_of_option taken htype hp rfl rfl
  · subst hn
    exact exec_readCounters_of_option taken htype hp rfl rfl
  · have unlisted : inRange 1 2 n.toNat = false := by
      clear taken htype hp
      revert n
      decide
    exact ⟨exec_readCounters_of_unlisted taken htype hp unlisted, exec_readCounters_of_unlisted taken htype hp unlisted⟩
  · intro s tag clear l todo values hreq follows x read q
    have step : exec .countersReadLane s = .next { s with part := s.part.countersReadLane } := rfl
    have fields : values ++ x.counters.fields = read := by simp [read, Counters.fields]
    rw [step, Wb610.countersReadLane_of_lane hreq follows, Wb610.continueCounters_eq, fields]
    rfl

end Sys2Proof.Machine
end

