-- ==== Sys2Proof/Proofs/TableKeys.lean ====
section
/-! TABLE DELETE and TABLE REVOKE, key by key, and the list requests laid out (R11, R14, R15). -/

namespace Sys2Proof.Machine

/-! ## One key at the table -/

section
variable {t : Table} {piece : List Byte} {k : Key} {e : Entry}

theorem Table.deleteKey_of_no_key (h : keyAt piece 0 = none) : t.deleteKey piece = (t, .badValue) := by
  simp [Table.deleteKey, h]

theorem Table.deleteKey_of_absent (h : keyAt piece 0 = some k) (hf : t.find k = none) :
    t.deleteKey piece = (t, .notFound) := by
  simp [Table.deleteKey, h, hf]

theorem Table.deleteKey_of_held (h : keyAt piece 0 = some k) (hf : t.find k = some e) (hh : e.isHeld = true) :
    t.deleteKey piece = (t, .held) := by
  simp [Table.deleteKey, h, hf, hh]

theorem Table.deleteKey_of_free (h : keyAt piece 0 = some k) (hf : t.find k = some e) (hh : e.isHeld = false) :
    t.deleteKey piece = (t.remove k, .ok) := by
  simp [Table.deleteKey, h, hf, hh]

theorem Table.revokeKey_of_no_key (h : keyAt piece 0 = none) : t.revokeKey piece = (t, .badValue) := by
  simp [Table.revokeKey, h]

theorem Table.revokeKey_of_absent (h : keyAt piece 0 = some k) (hf : t.find k = none) :
    t.revokeKey piece = (t, .notFound) := by
  simp [Table.revokeKey, h, hf]

theorem Table.revokeKey_of_found (h : keyAt piece 0 = some k) (hf : t.find k = some e) :
    t.revokeKey piece = (t.modify k Entry.revoke, if e.isHeld then .held else .ok) := by
  simp [Table.revokeKey, h, hf]

end

/-! ## The requests around the keys -/

theorem Wb610.continueDelete_eq (p : Wb610) (tag : Byte) (todo : List (List Byte)) (statuses : List Byte) :
    p.continueDelete tag todo statuses
      = if todo = [] then
          { p with
            request := none
            responses := p.responses
              ++ [{ type := 0xA1#8, tag := tag, payload := 0 :: byte statuses.length :: statuses }] }
        else { p with request := some (.delete tag todo statuses) } := by
  cases todo <;> rfl

theorem Wb610.continueRevoke_eq (p : Wb610) (tag : Byte) (todo : List (List Byte)) (statuses : List Byte) :
    p.continueRevoke tag todo statuses
      = if todo = [] then
          { p with
            request := none
            responses := p.responses
              ++ [{ type := 0xA2#8, tag := tag, payload := 0 :: byte statuses.length :: statuses }] }
        else { p with request := some (.revoke tag todo statuses) } := by
  cases todo <;> rfl

section
variable {s : State} {tag : Byte} {piece : List Byte} {todo : List (List Byte)} {statuses : List Byte} {u : Table}
  {code : ResultCode}

theorem exec_tableDeleteKey (hreq : s.part.request = some (.delete tag (piece :: todo) statuses))
    (hdone : s.part.table.deleteKey piece = (u, code)) :
    exec .tableDeleteKey s
      = .next { s with part := { s.part with table := u }.continueDelete tag todo (statuses ++ [code.code]) } := by
  have step : s.part.tableDeleteKey
      = { s.part with table := u }.continueDelete tag todo (statuses ++ [code.code]) := by
    simp only [Wb610.tableDeleteKey, hreq, hdone]
  rw [← step]
  rfl

theorem exec_tableRevokeKey (hreq : s.part.request = some (.revoke tag (piece :: todo) statuses))
    (hdone : s.part.table.revokeKey piece = (u, code)) :
    exec .tableRevokeKey s
      = .next { s with part := { s.part with table := u }.continueRevoke tag todo (statuses ++ [code.code]) } := by
  have step : s.part.tableRevokeKey
      = { s.part with table := u }.continueRevoke tag todo (statuses ++ [code.code]) := by
    simp only [Wb610.tableRevokeKey, hreq, hdone]
  rw [← step]
  rfl

end

/-! ## The pieces of a list request -/

theorem pieces_of_length (size n : Nat) (body : List Byte) (h : body.length = n * size) :
    (pieces size n body).length = n ∧ (∀ piece ∈ pieces size n body, piece.length = size)
      ∧ (pieces size n body).flatten = body := by
  induction n generalizing body with
  | zero =>
    obtain rfl : body = [] := List.eq_nil_of_length_eq_zero (by simpa using h)
    simp [pieces]
  | succ n ih =>
    rw [Nat.succ_mul] at h
    obtain ⟨count, lengths, joined⟩ := ih (body.drop size) (by rw [List.length_drop, h]; omega)
    refine ⟨by simp [pieces, count], ?_, by simp [pieces, joined]⟩
    intro piece hmem
    rcases List.mem_cons.mp hmem with rfl | hrest
    · rw [List.length_take, h]; omega
    · exact lengths piece hrest

theorem countedPieces_of_misfit {payload : List Byte} {most size : Nat}
    (h : payload = [] ∨ ∃ (count : Byte) (body : List Byte), payload = count :: body
      ∧ (count = 0 ∨ most < count.toNat ∨ body.length ≠ count.toNat * size)) :
    countedPieces payload most size = none := by
  rcases h with rfl | ⟨count, body, rfl, misfit⟩
  · rfl
  · refine if_neg fun ⟨one_le, le_most, fits⟩ => ?_
    rcases misfit with rfl | above | other
    · exact absurd one_le (by decide)
    · omega
    · exact other fits

theorem countedPieces_of_fit {count : Byte} {body : List Byte} {most size : Nat} (h0 : count ≠ 0)
    (hm : count.toNat ≤ most) (hb : body.length = count.toNat * size) :
    countedPieces (count :: body) most size = some (pieces size count.toNat body) := by
  have one_le : 1 ≤ count.toNat :=
    Nat.one_le_iff_ne_zero.mpr fun e => h0 (BitVec.eq_of_toNat_eq (by simpa using e))
  exact if_pos ⟨one_le, hm, hb⟩

/-- A list request: BAD_REQUEST where its count or its length is wrong, else its pieces laid out. -/
theorem State.Takes.serveList {s : State} {f : Frame} {rest : List Frame} (taken : s.Takes f rest) {type : Byte}
    (htype : f.type = type) (most size : Nat) (request : Byte → List (List Byte) → Request) :
    ((f.payload = [] ∨ ∃ (count : Byte) (body : List Byte), f.payload = count :: body
          ∧ (count = 0 ∨ most < count.toNat ∨ body.length ≠ count.toNat * size)) →
        s.act (fun p => p.serveList type most size request) = .next (s.answered rest s.part (f.reply 1 [])))
      ∧ ∀ (count : Byte) (body : List Byte), f.payload = count :: body → count ≠ 0 → count.toNat ≤ most →
          body.length = count.toNat * size →
          ∃ todo : List (List Byte), todo.length = count.toNat ∧ (∀ piece ∈ todo, piece.length = size)
            ∧ todo.flatten = body
            ∧ s.act (fun p => p.serveList type most size request)
              = .next { s with
                  part := { s.part with rxBuffer := rest, request := some (request f.tag todo) } } := by
  have own : (fun g : Frame => decide (g.type = type)) f = true := decide_eq_true htype
  refine ⟨fun misfit => ?_, fun count body hp h0 hm hb => ?_⟩
  · rw [State.act_eq, Wb610.serveList, taken.serve _ own, countedPieces_of_misfit misfit]
    rfl
  · obtain ⟨number, lengths, joined⟩ := pieces_of_length size count.toNat body hb
    refine ⟨_, number, lengths, joined, ?_⟩
    rw [State.act_eq, Wb610.serveList, taken.serve _ own, hp, countedPieces_of_fit h0 hm hb]

/-- Settles O32: the key's case at the table, the request around it, and the layout of the three list requests. -/
theorem deleteAndRevokeTakeEachKey : Obligations.DeleteAndRevokeTakeEachKey := by
  refine ⟨fun s tag piece todo statuses => ⟨fun hreq => ?_, fun hreq => ?_⟩, fun s f rest taken r hr => ?_⟩
  · intro done
    have deleted {u : Table} {code : ResultCode} (hdone : s.part.table.deleteKey piece = (u, code)) :
        done u code.code := by
      have h := exec_tableDeleteKey hreq hdone
      rw [Wb610.continueDelete_eq, List.length_append] at h
      exact h
    refine ⟨fun h => deleted (Table.deleteKey_of_no_key h), fun k h => ⟨fun hf => ?_, fun e hold hf hh => ?_,
      fun e hf hh => ?_⟩⟩
    · exact deleted (Table.deleteKey_of_absent h hf)
    · exact deleted (Table.deleteKey_of_held h hf (Entry.isHeld_of_held hh))
    · exact deleted (Table.deleteKey_of_free h hf (Entry.isHeld_of_no_hold hh))
  · intro done
    have revoked {u : Table} {code : ResultCode} (hdone : s.part.table.revokeKey piece = (u, code)) :
        done u code.code := by
      have h := exec_tableRevokeKey hreq hdone
      rw [Wb610.continueRevoke_eq, List.length_append] at h
      exact h
    have act : Entry.revoke = fun e => match e.state with
        | .held h => { e with state := .held { h with revokePending := true } }
        | _ => { e with state := .void } := by
      funext e
      cases hst : e.state <;> simp [Entry.revoke, hst]
    refine ⟨fun h => revoked (Table.revokeKey_of_no_key h), fun k h => ⟨fun hf => ?_, fun e hf => ?_⟩⟩
    · exact revoked (Table.revokeKey_of_absent h hf)
    · intro u
      have hu : u = s.part.table.modify k Entry.revoke := congrArg (s.part.table.modify k) act.symm
      rw [hu]
      refine ⟨fun hold hh => revoked (code := .held) ?_, fun hh => revoked (code := .ok) ?_⟩
      · rw [Table.revokeKey_of_found h hf, Entry.isHeld_of_held hh, if_pos rfl]
      · rw [Table.revokeKey_of_found h hf, Entry.isHeld_of_no_hold hh, if_neg Bool.false_ne_true]
  · intro most size htype
    simp only [List.mem_cons, List.not_mem_nil, or_false] at hr
    rcases hr with rfl | rfl | rfl
    · exact taken.serveList htype 16 32 fun tag todo => .load tag todo []
    · exact taken.serveList htype 32 11 fun tag todo => .delete tag todo []
    · exact taken.serveList htype 32 11 fun tag todo => .revoke tag todo []

end Sys2Proof.Machine
end

