-- ==== Sys2Proof/Proofs/UseUpdates.lean ====
section
/-! TABLE USE UPDATE: entered elsewhere and passed out elsewhere (R16, R17). -/

namespace Sys2Proof.Machine

/-! ## The update at the table -/

section
variable {t : Table} {k : Key} {e : Entry} {time expiry : Nat}

theorem Table.enterElsewhere_of_late (key : Option Key) (h : 259199 < time) :
    t.enterElsewhere key time = (t, .badValue) := by
  cases key with
  | none => rfl
  | some k => exact if_pos h

theorem Table.enterElsewhere_of_absent (h : time ≤ 259199) (hf : t.find k = none) :
    t.enterElsewhere (some k) time = (t, .notFound) := by
  simp [Table.enterElsewhere, Nat.not_lt.mpr h, hf]

theorem Table.enterElsewhere_of_ended (h : time ≤ 259199) (hf : t.find k = some e)
    (hst : e.state = .void ∨ e.state = .spent) : t.enterElsewhere (some k) time = (t, .wrongState) := by
  rcases hst with hst | hst <;> simp [Table.enterElsewhere, Nat.not_lt.mpr h, hf, hst]

theorem Table.enterElsewhere_of_held {hold : HoldRecord} (h : time ≤ 259199) (hf : t.find k = some e)
    (hst : e.state = .held hold) :
    t.enterElsewhere (some k) time = (t.modify k (Entry.enterElsewhere time), .held) := by
  simp [Table.enterElsewhere, Nat.not_lt.mpr h, hf, hst]

theorem Table.enterElsewhere_of_free (h : time ≤ 259199) (hf : t.find k = some e)
    (hst : e.state = .outside ∨ e.state = .inside ∨ ∃ x, e.state = .outOnPassout x) :
    t.enterElsewhere (some k) time = (t.modify k (Entry.enterElsewhere time), .ok) := by
  rcases hst with hst | hst | ⟨x, hst⟩ <;> simp [Table.enterElsewhere, Nat.not_lt.mpr h, hf, hst]

theorem Entry.enterElsewhere_of_held {hold : HoldRecord} (hst : e.state = .held hold) :
    e.enterElsewhere time = { e with state := .held { hold with enteredElsewhere := true } } := by
  simp [Entry.enterElsewhere, hst]

theorem Entry.enterElsewhere_of_free
    (hst : e.state = .outside ∨ e.state = .inside ∨ ∃ x, e.state = .outOnPassout x) :
    e.enterElsewhere time = { e with state := .inside, lastUse := some { lane := .elsewhere, time := time } } := by
  rcases hst with hst | hst | ⟨x, hst⟩ <;> simp [Entry.enterElsewhere, hst]

theorem Table.passOutElsewhere_of_late (key : Option Key) (h : 273599 < expiry) :
    t.passOutElsewhere key expiry = (t, .badValue) := by
  cases key with
  | none => rfl
  | some k => exact if_pos h

theorem Table.passOutElsewhere_of_absent (h : expiry ≤ 273599) (hf : t.find k = none) :
    t.passOutElsewhere (some k) expiry = (t, .notFound) := by
  simp [Table.passOutElsewhere, Nat.not_lt.mpr h, hf]

theorem Table.passOutElsewhere_of_ended (h : expiry ≤ 273599) (hf : t.find k = some e)
    (hst : e.state = .void ∨ e.state = .spent) : t.passOutElsewhere (some k) expiry = (t, .wrongState) := by
  rcases hst with hst | hst <;> simp [Table.passOutElsewhere, Nat.not_lt.mpr h, hf, hst]

theorem Table.passOutElsewhere_of_held {hold : HoldRecord} (h : expiry ≤ 273599) (hf : t.find k = some e)
    (hst : e.state = .held hold) : t.passOutElsewhere (some k) expiry = (t, .held) := by
  simp [Table.passOutElsewhere, Nat.not_lt.mpr h, hf, hst]

theorem Table.passOutElsewhere_of_free (h : expiry ≤ 273599) (hf : t.find k = some e)
    (hst : e.state = .outside ∨ e.state = .inside ∨ ∃ x, e.state = .outOnPassout x) :
    t.passOutElsewhere (some k) expiry = (t.modify k (Entry.passOutElsewhere expiry), .ok) := by
  rcases hst with hst | hst | ⟨x, hst⟩ <;> simp [Table.passOutElsewhere, Nat.not_lt.mpr h, hf, hst]

end

/-! ## The fields of the payload -/

section
variable {front : List Byte} {update b0 b1 b2 b3 : Byte}

theorem byteAt_update (h : front.length = 11) :
    byteAt (front ++ [update, b0, b1, b2, b3]) 11 = update.toNat := by
  simp [byteAt, fieldAt, h, beNat, beNatFrom]

theorem fieldAt_updateTime (h : front.length = 11) :
    fieldAt (front ++ [update, b0, b1, b2, b3]) 12 4
      = ((b0.toNat * 256 + b1.toNat) * 256 + b2.toNat) * 256 + b3.toNat := by
  simp [fieldAt, List.drop_append, h, beNat, beNatFrom, List.drop_of_length_le, Nat.mul_comm]

end

/-! ## The request -/

section
variable {s : State} {f : Frame} {rest : List Frame} (taken : s.Takes f rest) (htype : f.type = 0x23#8)
  (hlen : f.payload.length = 16)

include taken htype hlen

theorem useUpdate_enter {kind : Nat} (hk : byteAt f.payload 11 = 1) (own : kind = 1)
    {u : Table} {code : ResultCode}
    (hdone : s.part.table.enterElsewhere (keyAt f.payload 0) (fieldAt f.payload 12 4) = (u, code)) :
    s.act (fun p => p.useUpdate kind) = .next (s.answered rest { s.part with table := u } (f.reply code.code [])) := by
  have serves : servesUpdate kind f = true := by simp [servesUpdate, htype, hk, own]
  rw [State.act_eq, Wb610.useUpdate, taken.serve _ serves, if_neg (not_not.mpr hlen), if_pos hk]
  simp only [hdone]
  rfl

theorem useUpdate_passOut {kind : Nat} (hk : byteAt f.payload 11 = 2) (own : kind = 2)
    {u : Table} {code : ResultCode}
    (hdone : s.part.table.passOutElsewhere (keyAt f.payload 0) (fieldAt f.payload 12 4) = (u, code)) :
    s.act (fun p => p.useUpdate kind) = .next (s.answered rest { s.part with table := u } (f.reply code.code [])) := by
  have serves : servesUpdate kind f = true := by simp [servesUpdate, htype, hk, own]
  have other : byteAt f.payload 11 ≠ 1 := by omega
  rw [State.act_eq, Wb610.useUpdate, taken.serve _ serves, if_neg (not_not.mpr hlen), if_neg other, if_pos hk]
  simp only [hdone]
  rfl

theorem useUpdate_unlisted (kind : Nat) (h1 : byteAt f.payload 11 ≠ 1) (h2 : byteAt f.payload 11 ≠ 2) :
    s.act (fun p => p.useUpdate kind) = .next (s.answered rest s.part (f.reply 2 [])) := by
  have unlisted : inRange 1 2 (byteAt f.payload 11) = false := by
    simp only [inRange, Bool.and_eq_false_iff, decide_eq_false_iff_not]
    omega
  have serves : servesUpdate kind f = true := by simp [servesUpdate, htype, unlisted]
  rw [State.act_eq, Wb610.useUpdate, taken.serve _ serves, if_neg (not_not.mpr hlen), if_neg h1, if_neg h2]
  rfl

end

/-- Settles O33: the update's case at the table, inside the request of its kind. -/
theorem useUpdatesByEntryState : Obligations.UseUpdatesByEntryState := by
  intro s f rest k b0 b1 b2 b3 taken htype t value answer
  refine ⟨fun hp => ?_, fun hp => ?_, fun kind update body hp hbody => ?_⟩
  · have hkey : keyAt f.payload 0 = some k := by rw [hp, keyAt_record_append]
    have htime : fieldAt f.payload 12 4 = value := by rw [hp, fieldAt_updateTime k.record_length]
    have done {u : Table} {code : ResultCode} (h : t.enterElsewhere (some k) value = (u, code)) :
        answer .enteredElsewhere u code.code :=
      useUpdate_enter taken htype (by simp [hp, k.record_length]) (by rw [hp, byteAt_update k.record_length]; rfl) rfl
        (by rw [hkey, htime]; exact h)
    refine ⟨fun late => done (Table.enterElsewhere_of_late _ late), fun le => ⟨fun hf => ?_, fun e hf => ⟨fun hst => ?_,
      fun h hst => ⟨?_, Entry.enterElsewhere_of_held hst⟩, fun hst => ⟨?_, Entry.enterElsewhere_of_free hst⟩⟩⟩⟩
    · exact done (Table.enterElsewhere_of_absent le hf)
    · exact done (Table.enterElsewhere_of_ended le hf hst)
    · exact done (Table.enterElsewhere_of_held le hf hst)
    · exact done (Table.enterElsewhere_of_free le hf hst)
  · have hkey : keyAt f.payload 0 = some k := by rw [hp, keyAt_record_append]
    have htime : fieldAt f.payload 12 4 = value := by rw [hp, fieldAt_updateTime k.record_length]
    have done {u : Table} {code : ResultCode} (h : t.passOutElsewhere (some k) value = (u, code)) :
        answer .passedOutElsewhere u code.code :=
      useUpdate_passOut taken htype (by simp [hp, k.record_length]) (by rw [hp, byteAt_update k.record_length]; rfl) rfl
        (by rw [hkey, htime]; exact h)
    refine ⟨fun late => done (Table.passOutElsewhere_of_late _ late), fun le => ⟨fun hf => ?_, fun e hf => ⟨fun hst => ?_,
      fun h hst => ?_, fun hst => ⟨?_, rfl, rfl⟩⟩⟩⟩
    · exact done (Table.passOutElsewhere_of_absent le hf)
    · exact done (Table.passOutElsewhere_of_ended le hf hst)
    · exact done (Table.passOutElsewhere_of_held le hf hst)
    · exact done (Table.passOutElsewhere_of_free le hf hst)
  · have hlen : f.payload.length = 16 := by simp [hp, hbody]
    have hupdate : byteAt f.payload 11 = update.toNat := by
      rw [hp, byteAt_update (by simp [hbody])]
    have no_key (bad : kind = 0 ∨ 4 < kind.toNat) : keyAt f.payload 0 = none := by
      rw [hp, List.cons_append]
      exact keyAt_of_unlisted_kind _ bad
    refine ⟨fun h1 bad => ?_, fun h2 bad => ?_, fun h1 h2 => ?_⟩
    · exact useUpdate_enter taken htype hlen (by rw [hupdate, h1]; rfl) rfl (by rw [no_key bad])
    · exact useUpdate_passOut taken htype hlen (by rw [hupdate, h2]; rfl) rfl (by rw [no_key bad])
    · have ne1 : byteAt f.payload 11 ≠ 1 := fun e => h1 (BitVec.eq_of_toNat_eq (hupdate ▸ e))
      have ne2 : byteAt f.payload 11 ≠ 2 := fun e => h2 (BitVec.eq_of_toNat_eq (hupdate ▸ e))
      exact ⟨useUpdate_unlisted taken htype hlen 1 ne1 ne2, useUpdate_unlisted taken htype hlen 2 ne1 ne2⟩

end Sys2Proof.Machine
end

