-- ==== Sys2Proof/Proofs/RotorMoves.lean ====
section
/-! Rotor steps that reach no threshold of their lane state (R83, R85, R92). -/

namespace Sys2Proof.Machine

/-- A step that answers one part answers every part equal to it. -/
theorem State.next_congr {s : State} {q r : Wb610} (h : q = r) :
    (.next { s with part := q } : Host.Outcome State Fault Refusal) = .next { s with part := r } := by rw [h]

section
variable (p : Wb610) (l : LaneNo) {y : Lane} {a b lost : Bool}

/-- R83: the recorded pair brought back is no step. -/
theorem Wb610.rotorLines_of_same (ha : (p.lane l).rotor.lineA = a) (hb : (p.lane l).rotor.lineB = b) :
    p.rotorLines l a b lost = p := by
  simp [Wb610.rotorLines, lineChange, ha, hb]

/-! ## Steps forward -/

/-- R86, R90: below 6 no lane state makes more of a step forward. -/
theorem Wb610.forwardStep_of_below (h : y.rotor.offset + 1 < 6) :
    (p.setLane l y).forwardStep l lost = p.setLane l y.stepForward := by
  have offset : y.stepForward.sync.rotor.offset = y.rotor.offset + 1 := rfl
  have below : ¬ 6 ≤ y.rotor.offset + 1 := by omega
  have short : y.rotor.offset + 1 ≠ 36 := by omega
  simp only [Wb610.forwardStep, p.modLane_stepForward_rotor l, Wb610.lane_setLane_same, offset, below, short,
    false_and, if_false]
  split <;> (try split) <;> rfl

/-- R86, R90: past 6 and short of 36 these lanes make no more of a step forward. -/
theorem Wb610.forwardStep_of_short (h : y.rotor.offset + 1 ≠ 36)
    (hs : (∃ t, y.state = .passing t) ∨ (∃ t, y.state = .free t) ∨ (∃ t, y.state = .test t)
      ∨ (y.state.isUnadmitted = true ∧ (y.config.direction = .exit ∨ y.rotor.forced = true))) :
    (p.setLane l y).forwardStep l lost = p.setLane l y.stepForward := by
  have offset : y.stepForward.sync.rotor.offset = y.rotor.offset + 1 := rfl
  have forced : y.stepForward.sync.rotor.forced = y.rotor.forced := rfl
  have state : y.stepForward.sync.state = y.state := rfl
  have config : y.stepForward.sync.config = y.config := rfl
  simp only [Wb610.forwardStep, p.modLane_stepForward_rotor l, Wb610.lane_setLane_same, offset, forced, state, config,
    if_neg h]
  rcases hs with ⟨t, hst⟩ | ⟨t, hst⟩ | ⟨t, hst⟩ | ⟨open_, idle⟩
  · simp only [hst]
  · simp only [hst]
  · simp only [hst]
  · have unadmitted := y.state.isUnadmitted_iff.mp open_
    rcases unadmitted with ⟨c, hst⟩ | hst | hst | ⟨t, hst⟩ <;>
      (rcases idle with exits | begun
       · simp only [hst, exits]
       · cases hd : y.config.direction <;> simp [hst, begun])

/-! ## Steps back -/

theorem Rotor.stepBack_eq (r : Rotor) :
    r.stepBack
      = { r with
          offset := r.offset - 1
          forced := if r.offset - 1 ≤ 0 then false else r.forced } := by
  have forced : (r.forced && decide (0 < r.offset - 1)) = if r.offset - 1 ≤ 0 then false else r.forced := by
    split_ifs with h
    · rw [decide_eq_false (by omega), Bool.and_false]
    · rw [decide_eq_true (by omega), Bool.and_true]
  rw [← forced]
  rfl

theorem Wb610.backwardStep_of_short (h : y.rotor.offset - 1 ≠ -4) :
    (p.setLane l y).backwardStep l lost = p.setLane l y.stepBack := by
  have moved : ((p.setLane l y).modLane l fun x => { x with rotor := x.rotor.stepBack }) = p.setLane l y.stepBack :=
    p.modLane_setLane_of_outputFree l (Lane.outputFree_rotor Rotor.stepBack)
  have offset : y.stepBack.sync.rotor.offset = y.rotor.offset - 1 := rfl
  simp only [Wb610.backwardStep, moved, Wb610.lane_setLane_same, offset, if_neg h]

end

/-- Settles O37: the decoding table, then the step by how far it goes. -/
theorem rotorStepsMoveTheOffset : Obligations.RotorStepsMoveTheOffset := by
  intro s l a b lost p x r forward
  have moved : forward = p.setLane l (x.onLines a b).stepForward := by
    change p.setLane l _ = p.setLane l { x with rotor := (x.onLines a b).rotor.stepForward }
    rw [Rotor.stepForward_eq]
    rfl
  rw [exec_rotorLineChange, moved]
  refine ⟨fun ha hb => ?_, fun hrow h => ?_, fun hrow h hs => ?_, fun hrow h => ?_⟩
  · rw [s.part.rotorLines_of_same l ha hb]
  · rw [Wb610.rotorLines_of_forwardRow _ l hrow]
    exact State.next_congr (p.forwardStep_of_below l (y := x.onLines a b) h)
  · rw [Wb610.rotorLines_of_forwardRow _ l hrow]
    exact State.next_congr (p.forwardStep_of_short l (y := x.onLines a b) h hs)
  · rw [Wb610.rotorLines_of_backwardRow _ l hrow]
    refine State.next_congr ((p.backwardStep_of_short l (y := x.onLines a b) h).trans ?_)
    rw [Lane.stepBack, Rotor.stepBack_eq]
    rfl

end Sys2Proof.Machine
end

