-- ==== Sys2Proof/Proofs/LaneSettings.lean ====
section
/-! LANE CONFIGURE and LANE OPEN (R52, R73), LANE CLOSE by the lane's state (R74, R75). -/

namespace Sys2Proof.Machine

/-! ## The fields of LANE CONFIGURE -/

section
variable {b0 b1 b2 b3 b4 b5 : Byte}

theorem directionOf_of_unlisted (h1 : b1 ≠ 1) (h2 : b1 ≠ 2) : directionOf b1.toNat = none := by
  revert b1
  decide

theorem cardSourceOf_of_unlisted (h : 3 ≤ b3.toNat) : cardSourceOf b3.toNat = none := by
  revert b3
  decide

theorem boolOf_of_unlisted (h : 2 ≤ b4.toNat) : boolOf b4.toNat = none := by
  revert b4
  decide

theorem nibbleOf_of_ge {n : Nat} (h : 16 ≤ n) : nibbleOf n = none := dif_neg (Nat.not_lt.mpr h)

theorem nibbleOf_val (n : Fin 16) : nibbleOf n.val = some n := dif_pos n.isLt

/-- R52: a payload is read exactly when each of its bytes is, and free exit stands at an EXIT lane alone. -/
theorem laneConfigOf_eq_some_iff {l : LaneNo} {c : LaneConfig} :
    laneConfigOf [b0, b1, b2, b3, b4, b5] = some (l, c)
      ↔ laneOf b0.toNat = some l ∧ directionOf b1.toNat = some c.direction ∧ nibbleOf b2.toNat = some c.group
        ∧ cardSourceOf b3.toNat = some c.cardSource ∧ boolOf b4.toNat = some c.barcodeOn
        ∧ boolOf b5.toNat = some c.freeExit ∧ ¬ (c.direction = .entry ∧ c.freeExit = true) := by
  obtain ⟨direction, group, source, barcode, exits⟩ := c
  simp only [laneConfigOf, byteAt_cons, byteAt_head, Option.bind_eq_bind, Option.bind_eq_some_iff,
    Option.ite_none_left_eq_some, Option.some.injEq, Prod.mk.injEq, LaneConfig.mk.injEq, Bool.and_eq_true,
    decide_eq_true_eq]
  constructor
  · rintro ⟨_, h0, _, h1, _, h2, _, h3, _, h4, _, h5, apart, rfl, rfl, rfl, rfl, rfl, rfl⟩
    exact ⟨h0, h1, h2, h3, h4, h5, fun h => apart h.symm⟩
  · rintro ⟨h0, h1, h2, h3, h4, h5, apart⟩
    exact ⟨_, h0, _, h1, _, h2, _, h3, _, h4, _, h5, fun h => apart h.symm, rfl, rfl, rfl, rfl, rfl, rfl⟩

theorem laneConfigOf_of_out_of_range
    (h : 10 ≤ b0.toNat ∨ (b1 ≠ 1 ∧ b1 ≠ 2) ∨ 16 ≤ b2.toNat ∨ 3 ≤ b3.toNat ∨ 2 ≤ b4.toNat ∨ 2 ≤ b5.toNat
      ∨ (b1 = 1 ∧ b5 = 1)) : laneConfigOf [b0, b1, b2, b3, b4, b5] = none := by
  rw [Option.eq_none_iff_forall_ne_some]
  rintro ⟨l, c⟩ read
  obtain ⟨h0, h1, h2, h3, h4, h5, apart⟩ := laneConfigOf_eq_some_iff.mp read
  rcases h with bad | ⟨ne1, ne2⟩ | bad | bad | bad | bad | ⟨rfl, rfl⟩
  · simp [laneOf_of_ge bad] at h0
  · simp [directionOf_of_unlisted ne1 ne2] at h1
  · simp [nibbleOf_of_ge bad] at h2
  · simp [cardSourceOf_of_unlisted bad] at h3
  · simp [boolOf_of_unlisted bad] at h4
  · simp [boolOf_of_unlisted bad] at h5
  · exact apart ⟨(Option.some.inj h1).symm, (Option.some.inj h5).symm⟩

theorem laneConfigOf_of_listed {l : LaneNo} {c : LaneConfig} (h0 : b0.toNat = l.val)
    (h1 : b1 = match c.direction with | .entry => 1 | .exit => 2) (h2 : b2.toNat = c.group.val)
    (h3 : b3 = match c.cardSource with | .none => 0 | .bus => 1 | .remote => 2)
    (h4 : b4 = if c.barcodeOn then 1 else 0) (h5 : b5 = if c.freeExit then 1 else 0)
    (apart : ¬ (c.direction = .entry ∧ c.freeExit = true)) :
    laneConfigOf [b0, b1, b2, b3, b4, b5] = some (l, c) := by
  refine laneConfigOf_eq_some_iff.mpr ⟨by rw [h0, laneOf_val], ?_, by rw [h2, nibbleOf_val], ?_, ?_, ?_, apart⟩
  · rw [h1]; cases c.direction <;> rfl
  · rw [h3]; cases c.cardSource <;> rfl
  · rw [h4]; cases c.barcodeOn <;> rfl
  · rw [h5]; cases c.freeExit <;> rfl

end

/-! ## A lane configured -/

theorem LaneState.isClosed_of_not {st : LaneState} (h : ∀ cause, st ≠ .closed cause) : st.isClosed = false := by
  rw [Bool.eq_false_iff, ne_eq, LaneState.isClosed_iff]
  rintro ⟨cause, e⟩
  exact h cause e

/-- R52, R117: the five settings, the forced episode and the reader, whatever the lane had. -/
theorem Lane.configure_eq (c : LaneConfig) (x : Lane) :
    x.configure c
      = { x with
          config := c
          rotor := { x.rotor with forced := false }
          reader :=
            if c.cardSource = x.config.cardSource then x.reader
            else if c.cardSource = .bus then { online := true, misses := 0, repoll := .stopped }
            else if x.config.cardSource = .bus then { x.reader with repoll := .stopped }
            else x.reader } := by
  unfold Lane.configure Lane.changeCardSource
  by_cases same : x.config.cardSource = c.cardSource
  · rw [if_pos same, if_pos same.symm]
  · rw [if_neg same, if_neg (Ne.symm same)]
    split_ifs <;> rfl

section
variable {p : Wb610}

theorem Wb610.chooseReader_of_poll {m : Poll} (h : p.poll = some m) : p.chooseReader = p := by
  simp only [Wb610.chooseReader, h]

theorem Wb610.chooseReader_of_no_reader (h : p.nextReader = none) : p.chooseReader = p := by
  unfold Wb610.chooseReader
  split
  · rfl
  · simp only [h]

theorem Wb610.chooseReader_of_reader {l : LaneNo} (h : p.poll = none) (hn : p.nextReader = some l) :
    p.chooseReader = { p with pollPointer := l, poll := some { lane := l, window := none, leftBus := false } } := by
  simp only [Wb610.chooseReader, h, hn]

end

/-- R109: the bus arbiter does not look at the receive buffer. -/
theorem Wb610.chooseReader_with_rxBuffer (p : Wb610) (rest : List Frame) :
    { p with rxBuffer := rest }.chooseReader = { p.chooseReader with rxBuffer := rest } := by
  rcases Option.eq_none_or_eq_some p.poll with hp | ⟨m, hp⟩
  · have next : Wb610.nextReader { p with rxBuffer := rest } = p.nextReader := rfl
    cases hn : p.nextReader with
    | none => rw [Wb610.chooseReader_of_no_reader hn, Wb610.chooseReader_of_no_reader (next.trans hn)]
    | some l =>
      rw [Wb610.chooseReader_of_reader hp hn,
        Wb610.chooseReader_of_reader (p := { p with rxBuffer := rest }) hp (next.trans hn)]
  · rw [Wb610.chooseReader_of_poll hp, Wb610.chooseReader_of_poll (p := { p with rxBuffer := rest }) hp]

theorem Wb610.chooseReader_responses (p : Wb610) : p.chooseReader.responses = p.responses := by
  rcases p.chooseReader_cases with e | ⟨l, -, e⟩ <;> rw [e]

theorem Wb610.configuredLane_with_rxBuffer (p : Wb610) (rest : List Frame) (l : LaneNo) (c : LaneConfig) :
    { p with rxBuffer := rest }.configuredLane l c = { p.configuredLane l c with rxBuffer := rest } :=
  Wb610.chooseReader_with_rxBuffer
    { p.modLane l (Lane.configure c) with
      poll := p.poll.map (Poll.changeCardSource l (p.lane l).config.cardSource c.cardSource) } rest

theorem Wb610.configureLane_of_bad (p : Wb610) {f : Frame} (h : laneConfigOf f.payload = none) :
    p.configureLane f = p.respond f .badValue [] := by
  simp only [Wb610.configureLane, h]

theorem Wb610.configureLane_of_not_closed (p : Wb610) {f : Frame} {l : LaneNo} {c : LaneConfig}
    (h : laneConfigOf f.payload = some (l, c)) (hs : (p.lane l).state.isClosed = false) :
    p.configureLane f = p.respond f .wrongState [] := by
  simp only [Wb610.configureLane, h, hs, Bool.false_eq_true, if_false]

theorem Wb610.configureLane_of_closed (p : Wb610) {f : Frame} {l : LaneNo} {c : LaneConfig}
    (h : laneConfigOf f.payload = some (l, c)) (hs : (p.lane l).state.isClosed = true) :
    p.configureLane f = (p.configuredLane l c).respond f .ok [] := by
  simp only [Wb610.configureLane, h, hs, if_true]

/-! ## A lane opened -/

section
variable (p : Wb610) {f : Frame} {l : LaneNo}

theorem Wb610.openLane_of_no_lane (h : laneOf (byteAt f.payload 0) = none) :
    p.openLane f = p.respond f .badValue [] := by
  simp only [Wb610.openLane, h]

theorem Wb610.openLane_of_not_closed (h : laneOf (byteAt f.payload 0) = some l)
    (hs : (p.lane l).state.isClosed = false) : p.openLane f = p.respond f .wrongState [] := by
  simp only [Wb610.openLane, h, hs, Bool.false_eq_true, if_false]

theorem Wb610.openLane_of_not_ready (h : laneOf (byteAt f.payload 0) = some l)
    (hs : (p.lane l).state.isClosed = true) (hg : p.clock = none ∨ p.supply = .unknown) :
    p.openLane f = p.respond f .notReady [] := by
  simp [Wb610.openLane, h, hs, hg]

theorem Wb610.openLane_of_ready (h : laneOf (byteAt f.payload 0) = some l)
    (hs : (p.lane l).state.isClosed = true) (hc : p.clock ≠ none) (hk : p.supply ≠ .unknown) :
    p.openLane f = (p.modLane l Lane.openLane).respond f .ok [] := by
  simp [Wb610.openLane, h, hs, hc, hk]

end

/-- Settles O21: LANE CONFIGURE by its fields and the lane's state, LANE OPEN by the lane's state and the gate's. -/
theorem lanesAreConfiguredAndOpened : Obligations.LanesAreConfiguredAndOpened := by
  refine ⟨?_, ?_⟩
  · intro s f rest b0 b1 b2 b3 b4 b5 taken htype hp
    have step : exec .laneConfigure s = s.act fun p => p.serveFixed 0x10#8 6 Wb610.configureLane := rfl
    rw [step]
    refine ⟨fun bad => ?_, ?_⟩
    · exact taken.act_serveFixed (code := .badValue) htype (by rw [hp]; rfl) _ (by rfl)
        (Wb610.configureLane_of_bad _ (hp ▸ laneConfigOf_of_out_of_range bad))
    intro l c h0 h1 h2 h3 h4 h5 apart x
    have read : laneConfigOf f.payload = some (l, c) := hp ▸ laneConfigOf_of_listed h0 h1 h2 h3 h4 h5 apart
    refine ⟨fun hs => ?_, fun cause hs => ?_⟩
    · exact taken.act_serveFixed (code := .wrongState) htype (by rw [hp]; rfl) _ (by rfl)
        (Wb610.configureLane_of_not_closed _ read (LaneState.isClosed_of_not hs))
    · rw [← Lane.configure_eq c x]
      refine taken.act_serveFixed (code := .ok) htype (by rw [hp]; rfl) (s.part.configuredLane l c)
        (by exact Wb610.chooseReader_responses _) ?_
      refine (Wb610.configureLane_of_closed { s.part with rxBuffer := rest } read
        (x.state.isClosed_iff.mpr ⟨cause, hs⟩)).trans ?_
      exact congrArg (fun q => q.respond f .ok []) (s.part.configuredLane_with_rxBuffer rest l c)
  · intro s f rest b taken htype hp
    have step : exec .laneOpen s = s.act fun p => p.serveFixed 0x11#8 1 Wb610.openLane := rfl
    have lane : byteAt f.payload 0 = b.toNat := by rw [hp, byteAt_head]
    rw [step]
    refine ⟨fun bad => ?_, ?_⟩
    · exact taken.act_serveFixed (code := .badValue) htype (by rw [hp]; rfl) _ (by rfl)
        (Wb610.openLane_of_no_lane _ (by rw [lane, laneOf_of_ge bad]))
    intro l hl x
    have read : laneOf (byteAt f.payload 0) = some l := by rw [lane, hl, laneOf_val]
    refine ⟨fun hs => ?_, fun cause hs => ?_⟩
    · exact taken.act_serveFixed (code := .wrongState) htype (by rw [hp]; rfl) _ (by rfl)
        (Wb610.openLane_of_not_closed _ read (LaneState.isClosed_of_not hs))
    have closed : x.state.isClosed = true := x.state.isClosed_iff.mpr ⟨cause, hs⟩
    refine ⟨fun hg => ?_, fun hc hk => ?_⟩
    · exact taken.act_serveFixed (code := .notReady) htype (by rw [hp]; rfl) _ (by rfl)
        (Wb610.openLane_of_not_ready _ read closed hg)
    · exact taken.act_serveFixed (code := .ok) htype (by rw [hp]; rfl) _ (by rfl)
        (Wb610.openLane_of_ready _ read closed hc hk)

/-! ## LANE CLOSE -/

section
variable (p : Wb610) {f : Frame} {l : LaneNo}

/-- R74: a lane closed at once, told from the lane as it stands. -/
theorem Wb610.closeLane_of_follows (cause : ClosedCause) (hx : (p.lane l).OutputsFollow) :
    p.closeLane l cause
      = ((p.holdSettled (p.lane l).hold).queryCancelled (p.lane l).slot).setLane l
          ({ p.lane l with hold := none, slot := none }.afterClosing cause) := by
  conv_lhs => rw [← p.setLane_self l hx]
  exact p.closeLane_setLane l cause hx

theorem Wb610.closeRequest_of_no_lane (h : laneOf (byteAt f.payload 0) = none) :
    p.closeRequest f = p.respond f .badValue [] := by
  simp only [Wb610.closeRequest, h]

theorem Wb610.closeRequest_of_closed {cause : ClosedCause} (h : laneOf (byteAt f.payload 0) = some l)
    (hs : (p.lane l).state = .closed cause) : p.closeRequest f = p.respond f .ok [] := by
  simp only [Wb610.closeRequest, h, hs]

theorem Wb610.closeRequest_of_test {cause : ClosedCause} (h : laneOf (byteAt f.payload 0) = some l)
    (hs : (p.lane l).state = .test cause) :
    p.closeRequest f = (p.setLane l ((p.lane l).afterClosing .host)).respond f .ok [] := by
  simp only [Wb610.closeRequest, h, hs]
  rfl

/-- R74: the states that close at once, `y` being the lane then. -/
theorem Wb610.closeRequest_of_open {k : Option Key} {q : Option Query} {y : Lane}
    (h : laneOf (byteAt f.payload 0) = some l) (hx : (p.lane l).OutputsFollow)
    (hs : (p.lane l).state = .idle ∨ (p.lane l).state = .verifying ∨ (∃ t, (p.lane l).state = .released t)
      ∨ ∃ t, (p.lane l).state = .refusing t)
    (hk : (p.lane l).hold = k) (hq : (p.lane l).slot = q)
    (hy : ({ p.lane l with hold := none, slot := none } : Lane).afterClosing .host = y) :
    p.closeRequest f = (((p.holdSettled k).queryCancelled q).setLane l y).respond f .ok [] := by
  rw [← hk, ← hq, ← hy, ← p.closeLane_of_follows .host hx]
  rcases hs with hs | hs | ⟨t, hs⟩ | ⟨t, hs⟩ <;> simp only [Wb610.closeRequest, h, hs]

/-- R75: the states that defer. -/
theorem Wb610.closeRequest_of_deferring (h : laneOf (byteAt f.payload 0) = some l)
    (hs : (∃ t, (p.lane l).state = .passing t) ∨ ∃ r, (p.lane l).state = .free r) :
    p.closeRequest f = (p.modLane l Lane.deferClose).respond f .closePending [] := by
  rcases hs with ⟨t, hs⟩ | ⟨r, hs⟩ <;> simp only [Wb610.closeRequest, h, hs]

theorem Lane.deferClose_eq (x : Lane) :
    x.deferClose = if x.closePending = none then { x with closePending := some .host, next := none } else x := by
  unfold Lane.deferClose
  cases x.closePending <;> simp

end

/-- Settles O22: the request by the lane's state (`Wb610.closeRequest_of_…`), the closure by its hold and slot. -/
theorem laneCloseByState : Obligations.LaneCloseByState := by
  intro s f rest b taken htype hp
  have step : exec .laneClose s = s.act fun p => p.serveFixed 0x12#8 1 Wb610.closeRequest := rfl
  have lane : byteAt f.payload 0 = b.toNat := by rw [hp, byteAt_head]
  rw [step]
  have answers {q : Wb610} (hq : q.responses = s.part.responses) {code : ResultCode}
      (h : ({ s.part with rxBuffer := rest } : Wb610).closeRequest f = { q with rxBuffer := rest }.respond f code []) :
      s.act (fun p => p.serveFixed 0x12#8 1 Wb610.closeRequest)
        = .next (s.answered rest q (f.reply code.code [])) :=
    taken.act_serveFixed htype (by rw [hp]; rfl) q hq h
  refine ⟨fun bad => answers (code := .badValue) (by rfl)
    (Wb610.closeRequest_of_no_lane _ (by rw [lane, laneOf_of_ge bad])), ?_⟩
  intro l hl p x closed hx
  have read : laneOf (byteAt f.payload 0) = some l := by rw [lane, hl, laneOf_val]
  refine ⟨fun cause hs => ?_, fun cause hs => ?_, fun hslot hhold hs => ?_, fun t k hs hslot hhold => ?_,
    fun q hs hslot hhold => ?_, fun q k hs hslot hhold => ?_, fun hs => ?_⟩
  · exact answers (code := .ok) (by rfl) (Wb610.closeRequest_of_closed _ read hs)
  · exact answers (code := .ok) (by rfl) (Wb610.closeRequest_of_test _ read hs)
  · have bare : ({ x with hold := none, slot := none } : Lane) = x := by rw [← hslot, ← hhold]
    exact answers (code := .ok) (by rfl)
      (Wb610.closeRequest_of_open { s.part with rxBuffer := rest } read hx (hs.imp_right fun e => .inr (.inr e))
        hhold hslot (congrArg closed bare))
  · have ended : closed { x with hold := none, slot := none } = closed x.holdEnded := by
      simp only [closed, Lane.afterClosing, Lane.holdEnded, hslot]
    exact answers (code := .ok) (by rfl)
      (Wb610.closeRequest_of_open { s.part with rxBuffer := rest } read hx (.inr (.inr (.inl ⟨t, hs⟩)))
        hhold hslot ended)
  · have unheld : ({ x with hold := none, slot := none } : Lane) = { x with slot := none } := by rw [← hhold]
    exact answers (code := .ok) (by rfl)
      (Wb610.closeRequest_of_open { s.part with rxBuffer := rest } read hx (.inr (.inl hs))
        hhold hslot (congrArg closed unheld))
  · exact answers (code := .ok) (by rfl)
      (Wb610.closeRequest_of_open { s.part with rxBuffer := rest } read hx (.inr (.inl hs)) hhold hslot rfl)
  · rw [← Lane.deferClose_eq x]
    exact answers (code := .closePending) (by rfl) (Wb610.closeRequest_of_deferring _ read hs)

end Sys2Proof.Machine
end

