-- ==== Sys2Proof/Proofs/LaneTests.lean ====
section
/-! LANE TEST and its four actions (R76, R77, R165). -/

namespace Sys2Proof.Machine

/-! ## The actions -/

/-- What the layout reads as an action, told by what it does to a lane outside FREE. -/
inductive ActsAs : Option TestAction → Option (Lane → Lane) → Prop where
  | unread : ActsAs none none
  | acts {a : TestAction} {act : Lane → Lane} (h : ∀ x : Lane, x.state.isFree = false → x.testAct a = act x) :
    ActsAs (some a) (some act)

theorem ActsAs.action {o : Option TestAction} {act : Lane → Lane} (h : ActsAs o (some act)) :
    ∃ a, o = some a ∧ ∀ x : Lane, x.state.isFree = false → x.testAct a = act x := by
  cases h with
  | acts h => exact ⟨_, rfl, h⟩

theorem ActsAs.none_of_none {o : Option TestAction} (h : ActsAs o none) : o = none := by
  cases h
  rfl

/-- R77: a RELEASE of some time, 0 being the end of one. -/
theorem actsAs_release (n : Nat) :
    ActsAs (testActionOf 1 n)
      (if n ≤ 5000 then some fun x => { x with testRelease := if n = 0 then none else some (512 * n) } else none) := by
  change ActsAs (if n ≤ 5000 then some (.release n) else none) _
  by_cases h : n ≤ 5000
  · rw [if_pos h, if_pos h]
    refine .acts fun x _ => ?_
    cases n <;> rfl
  · rw [if_neg h, if_neg h]
    exact .unread

theorem actsAs_signal (g : Signal) :
    ActsAs (some (.signal g)) (some fun x => { x with signals := { x.signals with commanded := g } }) :=
  .acts fun _ _ => rfl

theorem actsAs_tone (t : Tone) :
    ActsAs (some (.tone t)) (some fun x => { x with signals := { x.signals with tone := toneAfter x.signals.tone t } }) :=
  .acts fun _ h => Lane.requestTone_of_not_free t h

theorem actsAs_offset (n : Nat) : ActsAs (testActionOf 4 n) (if n = 0 then some id else none) := by
  change ActsAs (if n = 0 then some .offset else none) _
  by_cases h : n = 0
  · rw [if_pos h, if_pos h]
    exact .acts fun _ _ => rfl
  · rw [if_neg h, if_neg h]
    exact .unread

theorem testActionOf_unlisted {b : Byte} (n : Nat) (h : b = 0 ∨ 4 < b.toNat) : testActionOf b.toNat n = none := by
  unfold testActionOf
  rcases h with rfl | above
  · rfl
  · split <;> first | rfl | omega

/-- R77: no action moves the rotor. -/
theorem Lane.testAct_rotor (a : TestAction) (x : Lane) : (x.testAct a).rotor = x.rotor := by
  unfold Lane.testAct
  split <;> first | rfl | rw [Lane.requestTone_eq]

/-! ## The action at a lane -/

section
variable (p : Wb610) {f : Frame} {l : LaneNo} {a : TestAction}

theorem Wb610.testLane_of_closed {cause : ClosedCause} (hs : (p.lane l).state = .closed cause) :
    p.testLane f l a = (p.setLane l (((p.lane l).enterTest cause).testAct a)).respond f .ok [0] := by
  have rest : ((((p.lane l).enterTest cause).testAct a).sync).offsetByte = 0 := by
    simp [Lane.offsetByte, Lane.testAct_rotor, Lane.enterTest, Rotor.rest]
  simp only [Wb610.testLane, hs, Wb610.lane_modLane_same, rest]
  rfl

theorem Wb610.testLane_of_test {cause : ClosedCause} (hs : (p.lane l).state = .test cause) :
    p.testLane f l a
      = (p.setLane l ((p.lane l).testAct a)).respond f .ok [BitVec.ofInt 8 (p.lane l).rotor.offset] := by
  have kept : (((p.lane l).testAct a).sync).offsetByte = BitVec.ofInt 8 (p.lane l).rotor.offset := by
    simp [Lane.offsetByte, Lane.testAct_rotor]
  simp only [Wb610.testLane, hs, Wb610.lane_modLane_same, kept]
  rfl

theorem Wb610.testLane_of_other (hs : ∀ cause, (p.lane l).state ≠ .closed cause ∧ (p.lane l).state ≠ .test cause) :
    p.testLane f l a = p.respond f .wrongState [] := by
  unfold Wb610.testLane
  split
  · next cause closed => exact absurd closed (hs cause).1
  · next cause test => exact absurd test (hs cause).2
  all_goals rfl

end

/-! ## The request -/

section
variable {s : State} {f : Frame} {rest : List Frame} {b0 b1 b2 b3 : Byte} (taken : s.Takes f rest)
  (htype : f.type = 0x13#8) (hp : f.payload = [b0, b1, b2, b3])

include htype hp

theorem servesTest_of_action {action : Nat} (h : b1.toNat = action ∨ inRange 1 4 b1.toNat = false) :
    servesTest action f = true := by
  simpa [servesTest, htype, hp, byteAt_cons, byteAt_head] using h

include taken

/-- A LANE TEST whose row takes it: BAD_VALUE unless its lane, its action and its parameter are read. -/
theorem laneTest_of_bad {action : Nat} (h : b1.toNat = action ∨ inRange 1 4 b1.toNat = false)
    (bad : 10 ≤ b0.toNat ∨ testActionOf b1.toNat (256 * b2.toNat + b3.toNat) = none) :
    s.act (fun p => p.laneTest action) = .next (s.answered rest s.part (f.reply 2 [])) := by
  have parameter : fieldAt [b0, b1, b2, b3] 2 2 = 256 * b2.toNat + b3.toNat := fieldAt_two b2 b3 []
  rw [State.act_eq, Wb610.laneTest, taken.serve _ (servesTest_of_action htype hp h)]
  simp only [hp, List.length_cons, List.length_nil, ne_eq, not_true_eq_false, if_false, byteAt_cons, byteAt_head,
    parameter]
  rcases bad with lane | unread
  · simp only [laneOf_of_ge lane]
    rfl
  · simp only [unread]
    split
    · next absent => simp at absent
    · rfl

theorem laneTest_of_read {action : Nat} (h : b1.toNat = action) {l : LaneNo} (hl : b0.toNat = l.val) {a : TestAction}
    (ha : testActionOf b1.toNat (256 * b2.toNat + b3.toNat) = some a) :
    s.act (fun p => p.laneTest action) = .next { s with part := { s.part with rxBuffer := rest }.testLane f l a } := by
  have parameter : fieldAt [b0, b1, b2, b3] 2 2 = 256 * b2.toNat + b3.toNat := fieldAt_two b2 b3 []
  rw [State.act_eq, Wb610.laneTest, taken.serve _ (servesTest_of_action htype hp (.inl h))]
  simp only [hp, List.length_cons, List.length_nil, ne_eq, not_true_eq_false, if_false, byteAt_cons, byteAt_head,
    parameter, hl, laneOf_val, ha]

end

/-- One row of LANE TEST: a command, its action code and what the parameter reads as. -/
def TestRow (n : Nat) (row : Instr × Byte × Option (Lane → Lane)) : Prop :=
  (∀ s, exec row.1 s = s.act fun p => p.laneTest row.2.1.toNat) ∧ ActsAs (testActionOf row.2.1.toNat n) row.2.2

/-- Settles O23: each row by its action (`actsAs_…`), then by the lane's state (`Wb610.testLane_of_…`). -/
theorem laneTestTakesItsAction : Obligations.LaneTestTakesItsAction := by
  intro s f rest b0 b1 b2 b3 taken htype hp n signal tone rows
  have listed : ∀ row ∈ rows, TestRow n row := by
    intro row hrow
    simp only [rows, List.mem_cons, List.not_mem_nil, or_false] at hrow
    rcases hrow with rfl | rfl | rfl | rfl
    · exact ⟨fun _ => rfl, actsAs_release n⟩
    · refine ⟨fun _ => rfl, ?_⟩
      change ActsAs ((Signal.ofCode n).map .signal) _
      rcases n with _ | _ | _ | _ | _ | _ | n
      all_goals first | exact actsAs_signal _ | exact .unread
    · refine ⟨fun _ => rfl, ?_⟩
      change ActsAs ((Tone.ofCode n).map .tone) _
      rcases n with _ | _ | _ | _ | _ | n
      all_goals first | exact actsAs_tone _ | exact .unread
    · exact ⟨fun _ => rfl, actsAs_offset n⟩
  clear_value rows
  refine ⟨fun row hrow unlisted => ?_, fun row hrow haction => ⟨fun bad => ?_, ?_⟩⟩
  · have range : inRange 1 4 b1.toNat = false := by
      clear hp
      revert b1
      decide
    rw [(listed row hrow).1]
    exact laneTest_of_bad taken htype hp (.inr range) (.inr (testActionOf_unlisted n unlisted))
  · obtain ⟨step, acts⟩ := listed row hrow
    rw [step]
    refine laneTest_of_bad taken htype hp (.inl (by rw [haction])) (bad.imp_right fun absent => ?_)
    rw [haction]
    exact (absent ▸ acts).none_of_none
  · obtain ⟨step, acts⟩ := listed row hrow
    intro l act hl hact x
    rw [hact] at acts
    obtain ⟨a, read, hact⟩ := acts.action
    rw [step, laneTest_of_read taken htype hp (by rw [haction]) hl (by rw [haction]; exact read)]
    refine ⟨fun cause hs => ?_, fun cause hs => ?_, fun hs => ?_⟩
    · have tested : (x.enterTest cause).testAct a = act (x.enterTest cause) := hact _ rfl
      refine Eq.trans ?_ (congrArg (fun y => Host.Outcome.next
        (s.answered rest (s.part.setLane l y) (f.reply 0 [0]))) tested)
      exact State.next_congr (Wb610.testLane_of_closed { s.part with rxBuffer := rest } hs)
    · have tested : x.testAct a = act x := hact _ (by rw [hs]; rfl)
      rw [← tested]
      exact State.next_congr (Wb610.testLane_of_test { s.part with rxBuffer := rest } hs)
    · exact State.next_congr (Wb610.testLane_of_other { s.part with rxBuffer := rest } hs)

end Sys2Proof.Machine
end

