-- ==== Sys2Proof/Proofs/LaneTimersExpire.lean ====
section
/-! The expiries of a lane's timers (R62, R64, R69-R72, R77, R158, R161) and the queries settled without the host
(R132, R133, R185). -/

namespace Sys2Proof.Machine

/-! ## The return to IDLE -/

/-- R69: nothing waits, or what waits is too old. -/
def Lane.TakesUpNothing (x : Lane) : Prop :=
  (∀ q, x.next ≠ some q) ∨ ∃ q, x.next = some { presentation := q, age := none }

theorem Lane.next_of_takesUpNothing {x : Lane} (h : x.TakesUpNothing) :
    x.next = none ∨ ∃ q, x.next = some { presentation := q, age := none } :=
  h.imp_left Option.eq_none_iff_forall_ne_some.mpr

section
variable (p : Wb610) (l : LaneNo) {y : Lane} {lost : Bool} {q : Presentation} {a : Ticks}

theorem Wb610.returnToIdle_of_nothing (hy : y.OutputsFollow) (h : y.TakesUpNothing) :
    (p.setLane l y).returnToIdle l lost = p.setLane l y.backToIdle := by
  have written := p.modLane_setLane_of_follows l hy Lane.enterIdle
  rcases Lane.next_of_takesUpNothing h with e | ⟨q, e⟩ <;>
    simp only [Wb610.returnToIdle, p.lane_setLane_of_follows l hy, e, written] <;> rfl

theorem Wb610.returnToIdle_of_waiting (hy : y.OutputsFollow)
    (h : y.next = some { presentation := q, age := some a }) :
    (p.setLane l y).returnToIdle l lost = (p.setLane l { y.backToIdle with current := some q }).claim l q lost := by
  have written := p.modLane_setLane_of_follows l hy fun x => { x.enterIdle with current := some q }
  simp only [Wb610.returnToIdle, p.lane_setLane_of_follows l hy, h, written]
  rfl

theorem Wb610.passageEnded_of_pending {cause : ClosedCause} (h : y.closePending = some cause) :
    p.passageEnded l y lost = p.setLane l (y.afterClosing cause) := by
  simp only [Wb610.passageEnded, h]

theorem Wb610.passageEnded_of_nothing (hc : y.closePending = none) (h : y.TakesUpNothing) :
    p.passageEnded l y lost = p.setLane l y.backToIdle := by
  rcases Lane.next_of_takesUpNothing h with e | ⟨q, e⟩ <;> simp only [Wb610.passageEnded, hc, e]

theorem Wb610.passageEnded_of_waiting (hc : y.closePending = none)
    (h : y.next = some { presentation := q, age := some a }) :
    p.passageEnded l y lost = (p.setLane l { y.backToIdle with current := some q }).claim l q lost := by
  simp only [Wb610.passageEnded, hc, h]

end

/-! ## The lane timers -/

section
variable (p : Wb610) (l : LaneNo) {lost : Bool} {t : Ticks} {k : Key} {c : Presentation}

/-- R26: the lane's hold released, with the report that tells of it. -/
theorem Wb610.releaseHold_report (hx : (p.lane l).OutputsFollow) (hk : (p.lane l).hold = some k)
    (kind : ReportKind) (key : ReportKey) :
    (p.releaseHold l).report kind (some l) 0 0 key
      = ((p.released k).report kind (some l) 0 0 key).setLane l (p.lane l).holdEnded := by
  conv_lhs => rw [← p.setLane_self l hx]
  rw [p.releaseHold_setLane l hx hk, Wb610.report_setLane]

theorem Lane.currentKey_of_some {x : Lane} (h : x.current = some c) : x.currentKey = .credential c.key := by
  simp only [Lane.currentKey, h, Option.elim]

theorem Wb610.admitWindowExpiry_of_released (hx : (p.lane l).OutputsFollow) (hs : (p.lane l).state = .released t)
    (hk : (p.lane l).hold = some k) (hc : (p.lane l).current = some c) :
    p.admitWindowExpiry l lost
      = (((p.released k).report .abandoned (some l) 0 0 (.credential c.key)).setLane l
          (p.lane l).holdEnded).returnToIdle l lost := by
  simp only [Wb610.admitWindowExpiry, hs]
  rw [p.releaseHold_report l hx hk, Lane.currentKey_of_some hc]

theorem Wb610.admitWindowExpiry_of_other (hs : ∀ t, (p.lane l).state ≠ .released t) :
    p.admitWindowExpiry l lost = p := by
  unfold Wb610.admitWindowExpiry
  split
  · next t released => exact absurd released (hs t)
  all_goals rfl

theorem Wb610.passageLimitExpiry_of_passing (hx : (p.lane l).OutputsFollow) (hs : (p.lane l).state = .passing t)
    (hk : (p.lane l).hold = some k) (hc : (p.lane l).current = some c) :
    p.passageLimitExpiry l lost
      = ((p.released k).report .stalled (some l) 0 0 (.credential c.key)).passageEnded l (p.lane l).holdEnded lost := by
  have ended : (p.lane l).holdEnded.OutputsFollow := hx
  simp only [Wb610.passageLimitExpiry, hs]
  rw [p.releaseHold_report l hx hk, Lane.currentKey_of_some hc, Wb610.leavePassing_setLane _ l lost ended]

theorem Wb610.passageLimitExpiry_of_other (hs : ∀ t, (p.lane l).state ≠ .passing t) :
    p.passageLimitExpiry l lost = p := by
  unfold Wb610.passageLimitExpiry
  split
  · next t passing => exact absurd passing (hs t)
  all_goals rfl

theorem Wb610.refusalDisplayExpiry_of_refusing (hx : (p.lane l).OutputsFollow) (hs : (p.lane l).state = .refusing t) :
    p.refusalDisplayExpiry l lost = (p.setLane l (p.lane l)).returnToIdle l lost := by
  rw [p.setLane_self l hx]
  simp only [Wb610.refusalDisplayExpiry, hs]

theorem Wb610.refusalDisplayExpiry_of_other (hs : ∀ t, (p.lane l).state ≠ .refusing t) :
    p.refusalDisplayExpiry l lost = p := by
  unfold Wb610.refusalDisplayExpiry
  split
  · next t refusing => exact absurd refusing (hs t)
  all_goals rfl

end

theorem exec_admitWindowExpiry (l : LaneNo) (lost : Bool) (s : State) :
    exec (.admitWindowExpiry l lost) s = .next { s with part := s.part.admitWindowExpiry l lost } := rfl

theorem exec_passageLimitExpiry (l : LaneNo) (lost : Bool) (s : State) :
    exec (.passageLimitExpiry l lost) s = .next { s with part := s.part.passageLimitExpiry l lost } := rfl

theorem exec_refusalDisplayExpiry (l : LaneNo) (lost : Bool) (s : State) :
    exec (.refusalDisplayExpiry l lost) s = .next { s with part := s.part.refusalDisplayExpiry l lost } := rfl

/-- Settles O25: the expiry by the lane's state, then the way out of it (`Wb610.returnToIdle_of_…`,
`Wb610.passageEnded_of_…`). -/
theorem admittedLaneTimersExpire : Obligations.AdmittedLaneTimersExpire := by
  refine ⟨fun s l lost => ⟨fun t k c hx hs hk hc => ⟨fun h => ?_, fun q a h => ?_⟩, fun hs => ?_⟩,
    fun s l lost => ⟨fun t k c hx hs hk hc => ⟨fun cause h => ?_, fun h0 h => ?_, fun q a h0 h => ?_⟩, fun hs => ?_⟩⟩
  · rw [exec_admitWindowExpiry, Wb610.admitWindowExpiry_of_released _ l hx hs hk hc,
      Wb610.returnToIdle_of_nothing _ l (y := (s.part.lane l).holdEnded) hx h]
  · rw [exec_admitWindowExpiry, Wb610.admitWindowExpiry_of_released _ l hx hs hk hc,
      Wb610.returnToIdle_of_waiting _ l (y := (s.part.lane l).holdEnded) hx h]
  · rw [exec_admitWindowExpiry, Wb610.admitWindowExpiry_of_other _ l hs]
  · rw [exec_passageLimitExpiry, Wb610.passageLimitExpiry_of_passing _ l hx hs hk hc,
      Wb610.passageEnded_of_pending _ l (y := (s.part.lane l).holdEnded) h]
  · rw [exec_passageLimitExpiry, Wb610.passageLimitExpiry_of_passing _ l hx hs hk hc,
      Wb610.passageEnded_of_nothing _ l (y := (s.part.lane l).holdEnded) h0 h]
  · rw [exec_passageLimitExpiry, Wb610.passageLimitExpiry_of_passing _ l hx hs hk hc,
      Wb610.passageEnded_of_waiting _ l (y := (s.part.lane l).holdEnded) h0 h]
  · rw [exec_passageLimitExpiry, Wb610.passageLimitExpiry_of_other _ l hs]

/-- Settles O26: the refusal display by the lane's state; each small timer writes its one field. -/
theorem refusalDisplayAndSmallTimersExpire : Obligations.RefusalDisplayAndSmallTimersExpire := by
  refine ⟨fun s l lost => ⟨fun t hx hs => ⟨fun h => ?_, fun q a h => ?_⟩, fun hs => ?_⟩,
    fun s l => ⟨fun q a h => ?_, fun k t h => ?_, fun t h => rfl, fun t h => rfl, fun lit left h => ?_⟩⟩
  · rw [exec_refusalDisplayExpiry, Wb610.refusalDisplayExpiry_of_refusing _ l hx hs,
      Wb610.returnToIdle_of_nothing _ l hx h]
  · rw [exec_refusalDisplayExpiry, Wb610.refusalDisplayExpiry_of_refusing _ l hx hs,
      Wb610.returnToIdle_of_waiting _ l hx h]
  · rw [exec_refusalDisplayExpiry, Wb610.refusalDisplayExpiry_of_other _ l hs]
  · have aged : (s.part.lane l).next.map (fun w => { w with age := none })
        = some { presentation := q, age := none } := by rw [h]; rfl
    rw [← aged]
    rfl
  · have run_out : (s.part.lane l).repeatMemory.map (fun m => { m with timer := none })
        = some { key := k, timer := none } := by rw [h]; rfl
    rw [← run_out]
    rfl
  · have toggled : (s.part.lane l).signals.flash.map FlashPhase.toggle = some { lit := !lit, left := 256000 } := by
      rw [h]; rfl
    rw [← toggled]
    rfl

/-! ## Queries settled without the host -/

section
variable (p : Wb610) (l : LaneNo) {q : Query} {c : Presentation}

theorem Wb610.settleWithoutHost_of_unheld (hx : (p.lane l).OutputsFollow) (hq : (p.lane l).slot = some q)
    (hc : (p.lane l).current = some c) (hf : q.cause ≠ .flagged) :
    p.settleWithoutHost l
      = ((p.queryCancelled (some q)).setLane l
          ({ p.lane l with slot := none }.afterRefusal p.settings c.key)).report .refused (some l) 16 0
          (.credential c.key) := by
  have emptied : ({ p.lane l with slot := none } : Lane).OutputsFollow := hx
  have refused := (p.queryCancelled (some q)).refuse_setLane l emptied hc .noVerdict
  rw [← p.dropQuery_of_slot l hq] at refused
  cases hcause : q.cause with
  | flagged => exact absurd hcause hf
  | unknown => simp only [Wb610.settleWithoutHost, hq, hcause, refused]; rfl
  | suspect => simp only [Wb610.settleWithoutHost, hq, hcause, refused]; rfl

theorem Wb610.settleWithoutHost_of_local (hx : (p.lane l).OutputsFollow) (hq : (p.lane l).slot = some q)
    (hc : (p.lane l).current = some c) (hf : q.cause = .flagged) (hp : p.settings.offlinePolicy = .admitLocal) :
    p.settleWithoutHost l
      = (p.queryCancelled (some q)).setLane l
          ({ p.lane l with slot := none }.afterAdmission p.settings c.key false true) := by
  have emptied : ({ p.lane l with slot := none } : Lane).OutputsFollow := hx
  have admitted := (p.queryCancelled (some q)).admitHolder_setLane l emptied hc false true
  rw [← p.dropQuery_of_slot l hq] at admitted
  simp only [Wb610.settleWithoutHost, hq, hf, hp, admitted]
  rfl

theorem Wb610.settleWithoutHost_of_refuse {k : Key} (hx : (p.lane l).OutputsFollow) (hq : (p.lane l).slot = some q)
    (hc : (p.lane l).current = some c) (hf : q.cause = .flagged) (hp : p.settings.offlinePolicy = .refuse)
    (hk : (p.lane l).hold = some k) :
    p.settleWithoutHost l
      = (((p.released k).queryCancelled (some q)).setLane l
          ({ (p.lane l).holdEnded with slot := none }.afterRefusal p.settings c.key)).report .refused (some l) 16 0
          (.credential c.key) := by
  have emptied : ({ p.lane l with slot := none } : Lane).OutputsFollow := hx
  have ended : ({ (p.lane l).holdEnded with slot := none } : Lane).OutputsFollow := hx
  have refused := ((p.queryCancelled (some q)).released k).refuse_setLane l ended hc .noVerdict
  have dropped := (p.queryCancelled (some q)).releaseHold_setLane l emptied hk
  rw [← p.dropQuery_of_slot l hq] at dropped
  simp only [Wb610.settleWithoutHost, hq, hf, hp, dropped]
  exact refused

end

theorem exec_verifyDeadlineExpiry (l : LaneNo) (s : State) :
    exec (.verifyDeadlineExpiry l) s = .next { s with part := s.part.settleWithoutHost l } := rfl

/-- The deadlines of some lanes taken one after the other settle their queries in that order. -/
theorem execAll_verifyDeadlines (lanes : List LaneNo) (s : State) :
    execAll (lanes.map Instr.verifyDeadlineExpiry) s
      = .next { s with part := lanes.foldl Wb610.settleWithoutHost s.part } := by
  induction lanes generalizing s with
  | nil => rfl
  | cons l rest ih =>
    simp only [List.map_cons, execAll, exec_verifyDeadlineExpiry, List.foldl_cons]
    exact ih _

/-- Settles O30: one deadline by the query's cause and the policy (`Wb610.settleWithoutHost_of_…`); the silence timeout
as all ten of them. -/
theorem queriesSettleWithoutTheHost : Obligations.QueriesSettleWithoutTheHost := by
  refine ⟨fun s l => ⟨fun hq => ?_, fun q c hx hs hq hc => ⟨fun hf => ?_, fun hf hp => ?_, fun k hf hp hk => ?_⟩⟩,
    fun s => ⟨fun h => ?_, fun h hon => ?_, fun h hon => ?_⟩⟩
  · rw [exec_verifyDeadlineExpiry, Wb610.settleWithoutHost_of_none _ l hq]
  · exact State.next_congr (s.part.settleWithoutHost_of_unheld l hx hq hc hf)
  · exact State.next_congr (s.part.settleWithoutHost_of_local l hx hq hc hf hp)
  · exact State.next_congr (s.part.settleWithoutHost_of_refuse l hx hq hc hf hp hk)
  · exact State.next_congr (by simp only [Wb610.silenceTimeout, h])
  · obtain ⟨t, ht⟩ := Option.ne_none_iff_exists'.mp h
    exact State.next_congr (by simp [Wb610.silenceTimeout, ht, hon])
  · obtain ⟨t, ht⟩ := Option.ne_none_iff_exists'.mp h
    refine ⟨_, execAll_verifyDeadlines _ _, State.next_congr ?_⟩
    simp only [Wb610.silenceTimeout, ht, hon, if_true]
    rfl

end Sys2Proof.Machine
end

