-- ==== Sys2Proof/Proofs/ClaimOutcomes.lean ====
section
/-! What the outcome of a claim makes of the lane and the gate (R22, R56, R123, R132). -/

namespace Sys2Proof.Machine

/-! ## The host is asked while the link is ONLINE alone -/

/-- A judgement that asks the host. -/
def Judgement.asks : Judgement → Bool
  | .verifyUnheld _ _ => true
  | .verifyFlagged => true
  | .refuse _ => false | .spendAndRefuse => false | .admitHolder _ _ => false

section
variable {view : GateView} (c : LaneConfig) (t : Table) (q : Presentation) (e : Entry) (ho : view.online = false)

include ho

theorem judgeUnheld_offline (d : Direction) (cause : QueryCause) : (judgeUnheld view d cause).asks = false := by
  simp [judgeUnheld, ho, Judgement.asks]

theorem judgeCandidate_offline (verify : Bool) : (judgeCandidate view verify).asks = false := by
  rw [judgeCandidate_eq, ho]
  split_ifs <;> first | rfl | contradiction

theorem judgeEntryState_offline : (judgeEntryState view e).asks = false := by
  unfold judgeEntryState
  split
  any_goals rfl
  · exact judgeCandidate_offline ho e.verify
  · split
    · rfl
    · exact judgeCandidate_offline ho e.verify

omit ho in
theorem judgeExitState_asks : (judgeExitState e).asks = false := by
  unfold judgeExitState
  split
  any_goals rfl
  split <;> rfl

theorem judgeEntry_offline : (judgeEntry view c e).asks = false := by
  unfold judgeEntry
  split
  any_goals rfl
  all_goals
    split
    · rfl
    · split
      · split
        · rfl
        · exact judgeEntryState_offline e ho
      · exact judgeExitState_asks e

/-- R38, R45: while the link is OFFLINE no judgement asks the host. -/
theorem judge_offline : (judge view c t q).asks = false := by
  unfold judge
  split
  · rfl
  split
  · rfl
  unfold judgeKey
  split
  · exact judgeUnheld_offline ho c.direction .suspect
  · split
    · exact judgeUnheld_offline ho c.direction .unknown
    · next e _ => exact judgeEntry_offline c e ho

end

theorem judge_online {view : GateView} {c : LaneConfig} {t : Table} {q : Presentation}
    (h : (judge view c t q).asks = true) : view.online = true := by
  by_contra off
  rw [judge_offline c t q (Bool.eq_false_iff.mpr off)] at h
  cases h

/-- R38: a query without a hold is never FLAGGED. -/
theorem judge_unflagged {view : GateView} {c : LaneConfig} {t : Table} {q : Presentation} {cause : QueryCause}
    {purpose : Purpose} (h : judge view c t q = .verifyUnheld cause purpose) : cause ≠ .flagged := by
  rcases judge_cases view c t q with refuses | ⟨cause', purpose', asked, unflagged⟩ | ⟨e, -, -, acts⟩
  · rw [h] at refuses
    obtain ⟨r, hr⟩ := refuses
    cases hr
  · obtain ⟨rfl, rfl⟩ := Judgement.verifyUnheld.inj (h.symm.trans asked)
    exact unflagged
  · rw [h] at acts
    rcases acts with e | e | ⟨_, _, e⟩ <;> cases e

/-! ## A signal newly shown -/

/-- The outputs of a lane whose signal changes do not depend on those it had. -/
theorem Lane.sync_of_newly_shown {x : Lane} (h : x.signals.shown ≠ signalFor x.signals.commanded x.state) :
    x.sync
      = { x with
          lockOn := lockFor x.config x.testRelease x.state
          signals :=
            { x.signals with
              shown := signalFor x.signals.commanded x.state
              flash :=
                if (signalFor x.signals.commanded x.state).flashes then some { lit := true, left := flashHalf }
                else none } } := by
  simp [Lane.sync, SignalUnit.display, h]

theorem Wb610.setLane_congr (p : Wb610) (l : LaneNo) {x y : Lane} (h : x.sync = y.sync) :
    p.setLane l x = p.setLane l y := by
  rw [Wb610.setLane, Wb610.setLane, h]

/-! ## A query opened -/

/-- R121, R123: the query a lane opens next. -/
def Lane.question (c : Settings) (l : LaneNo) (k : Key) (purpose : Purpose) (cause : QueryCause) (x : Lane) : Query :=
  { tag := 16 * l.val + (x.queryCounter + 1).val, key := k, purpose := purpose, cause := cause
    deadline := 512 * c.verifyDeadline }

/-- R124: the message that asks the host about it. -/
def Lane.message (l : LaneNo) (k : Key) (purpose : Purpose) (cause : QueryCause) (x : Lane) : VerifyMessage :=
  { tag := 16 * l.val + (x.queryCounter + 1).val, lane := l, purpose := purpose, key := k, cause := cause }

/-- R123: a lane that asks the host: VERIFYING, the counter advanced, the slot filled. -/
def Lane.asking (c : Settings) (l : LaneNo) (k : Key) (purpose : Purpose) (cause : QueryCause) (x : Lane) : Lane :=
  { x with
    state := .verifying, queryCounter := x.queryCounter + 1, slot := some (x.question c l k purpose cause) }

theorem nextCounter_eq (c : Fin 16) : nextCounter c = c + 1 := by
  revert c
  decide

section
variable (p : Wb610) (l : LaneNo) {x : Lane} {q : Presentation} {k : Key} {purpose : Purpose} {cause : QueryCause}

theorem Wb610.openQuery_of_online (ho : p.online = true) :
    p.openQuery l k purpose cause
      = { p with verifyQueue := p.verifyQueue ++ [(p.lane l).message l k purpose cause] }.setLane l
          ((p.lane l).asking p.settings l k purpose cause) := by
  simp only [Wb610.openQuery, ho, if_true, nextCounter_eq, queryTag, Settings.deadlineTime, ms, Lane.message,
    Lane.asking, Lane.question, Wb610.modLane, Wb610.setLane]

theorem Wb610.openQuery_of_offline (ho : p.online = false) :
    p.openQuery l k purpose cause
      = (p.setLane l ((p.lane l).asking p.settings l k purpose cause)).settleWithoutHost l := by
  simp only [Wb610.openQuery, ho, Bool.false_eq_true, if_false, nextCounter_eq]
  rfl

/-- R158: an IDLE lane that asks shows WAIT at once, so its own outputs are the ones its query is settled from. -/
theorem Lane.follows_asking_sync (hx : x.OutputsFollow) (c : Settings) : (x.asking c l k purpose cause).sync.OutputsFollow :=
  Lane.follows_sync _ hx.2.2

/-- R124: with no message waiting none is removed. -/
theorem Wb610.queryCancelled_of_empty (hv : p.verifyQueue = []) (o : Option Query) : p.queryCancelled o = p := by
  cases o with
  | none => rfl
  | some q =>
    have kept : p.verifyQueue.filter (fun m => m.tag ≠ q.tag) = p.verifyQueue := by rw [hv]; rfl
    rw [Wb610.queryCancelled, kept]

end

/-! ## A query opened and settled in one event -/

section
variable {d : Wb610} {l : LaneNo} {x : Lane} {q : Presentation} {k : Key} {purpose : Purpose} {cause : QueryCause}

/-- R158: REFUSING shows another signal than IDLE and VERIFYING do, so the asking leaves no trace in it. -/
theorem Lane.afterRefusal_of_asked (c : Settings) (hshown : x.signals.shown = .ready) (hslot : x.slot = none) :
    (({ (x.asking c l k purpose cause).sync with slot := none } : Lane).afterRefusal c q.key).sync
      = ({ x with queryCounter := x.queryCounter + 1 }.afterRefusal c q.key).sync := by
  rw [Lane.sync_of_newly_shown (x := Lane.afterRefusal _ _ _) (by simp [Lane.afterRefusal, Lane.asking, signalFor]),
    Lane.sync_of_newly_shown (x := Lane.afterRefusal _ _ { x with queryCounter := x.queryCounter + 1 })
      (by simp [Lane.afterRefusal, signalFor, hshown])]
  simp [Lane.afterRefusal, Lane.asking, hslot]
  rfl

/-- R158: so it is with RELEASED. -/
theorem Lane.afterAdmission_of_asked (c : Settings) (hshown : x.signals.shown = .ready) (hslot : x.slot = none) :
    (({ (x.asking c l k purpose cause).sync with slot := none } : Lane).afterAdmission c q.key false true).sync
      = ({ x with queryCounter := x.queryCounter + 1 }.afterAdmission c q.key false true).sync := by
  rw [Lane.sync_of_newly_shown (x := Lane.afterAdmission _ _ _ _ _)
      (by simp [Lane.afterAdmission, Lane.asking, signalFor]),
    Lane.sync_of_newly_shown (x := Lane.afterAdmission _ _ _ _ { x with queryCounter := x.queryCounter + 1 })
      (by simp [Lane.afterAdmission, signalFor, hshown])]
  simp [Lane.afterAdmission, Lane.asking, hslot]

end

/-- R123, R132: what the gate is like when a query is opened behind a link loss, at a lane that told `x` before. -/
structure Wb610.LostFor (d : Wb610) (l : LaneNo) (x : Lane) (q : Presentation) : Prop where
  lane : d.lane l = x
  offline : d.online = false
  quiet : d.verifyQueue = []
  follows : x.OutputsFollow
  shown : x.signals.shown = .ready
  slot : x.slot = none
  current : x.current = some q

section
variable {d : Wb610} {l : LaneNo} {x : Lane} {q : Presentation} {k : Key} {purpose : Purpose} {cause : QueryCause}

/-- The gate once the lane is asking, its outputs set. -/
theorem Wb610.LostFor.asked (h : d.LostFor l x q) (k : Key) (purpose : Purpose) (cause : QueryCause) :
    let a := d.setLane l (x.asking d.settings l k purpose cause)
    d.openQuery l k purpose cause = a.settleWithoutHost l
      ∧ a.lane l = (x.asking d.settings l k purpose cause).sync ∧ (a.lane l).OutputsFollow
      ∧ (a.lane l).slot = some (x.question d.settings l k purpose cause) ∧ (a.lane l).current = some q
      ∧ (a.lane l).hold = x.hold ∧ a.verifyQueue = [] := by
  intro a
  have lane : a.lane l = (x.asking d.settings l k purpose cause).sync := d.lane_setLane_same l _
  have opened : d.openQuery l k purpose cause = a.settleWithoutHost l := by
    rw [Wb610.openQuery_of_offline d l h.offline, h.lane]
  rw [lane]
  exact ⟨opened, rfl, Lane.follows_asking_sync l h.follows d.settings, rfl, h.current, rfl, h.quiet⟩

/-- R132: an UNKNOWN or SUSPECT query opened OFFLINE is refused at once. -/
theorem Wb610.LostFor.openQuery_unheld (h : d.LostFor l x q) (hf : cause ≠ .flagged) :
    d.openQuery l k purpose cause
      = (d.setLane l ({ x with queryCounter := x.queryCounter + 1 }.afterRefusal d.settings q.key)).report .refused
          (some l) 16 0 (.credential q.key) := by
  obtain ⟨opened, lane, follows, slot, current, -, quiet⟩ := h.asked k purpose cause
  rw [opened, Wb610.settleWithoutHost_of_unheld _ l follows slot current hf, Wb610.queryCancelled_of_empty _ quiet,
    lane, Wb610.setLane_setLane]
  exact congrArg (fun g => Wb610.report g .refused (some l) 16 0 (.credential q.key))
    (d.setLane_congr l (Lane.afterRefusal_of_asked d.settings h.shown h.slot))

/-- R132: a FLAGGED query opened OFFLINE is admitted at once under ADMIT_LOCAL. -/
theorem Wb610.LostFor.openQuery_local (h : d.LostFor l x q) (hp : d.settings.offlinePolicy = .admitLocal) :
    d.openQuery l k purpose .flagged
      = d.setLane l ({ x with queryCounter := x.queryCounter + 1 }.afterAdmission d.settings q.key false true) := by
  obtain ⟨opened, lane, follows, slot, current, -, quiet⟩ := h.asked k purpose .flagged
  rw [opened, Wb610.settleWithoutHost_of_local _ l follows slot current rfl hp, Wb610.queryCancelled_of_empty _ quiet,
    lane, Wb610.setLane_setLane]
  exact d.setLane_congr l (Lane.afterAdmission_of_asked d.settings h.shown h.slot)

/-- R132: a FLAGGED query opened OFFLINE is refused at once under REFUSE, its hold released. -/
theorem Wb610.LostFor.openQuery_refuse (h : d.LostFor l x q) (hp : d.settings.offlinePolicy = .refuse)
    (hk : x.hold = some k) :
    d.openQuery l k purpose .flagged
      = ((d.released k).setLane l
          ({ x with queryCounter := x.queryCounter + 1 }.holdEnded.afterRefusal d.settings q.key)).report .refused
          (some l) 16 0 (.credential q.key) := by
  obtain ⟨opened, lane, follows, slot, current, hold, quiet⟩ := h.asked k purpose .flagged
  have settled := Wb610.settleWithoutHost_of_refuse _ l follows slot current rfl hp (hold.trans hk)
  rw [opened, settled, Wb610.queryCancelled_of_empty (Wb610.released (d.setLane l (x.asking d.settings l k purpose .flagged)) k) quiet,
    lane]
  exact congrArg (fun g => Wb610.report g .refused (some l) 16 0 (.credential q.key))
    (((d.released k).setLane_setLane l _ _).trans
      ((d.released k).setLane_congr l (Lane.afterRefusal_of_asked (x := x.holdEnded) d.settings h.shown h.slot)))

end

/-! ## Claims -/

section
variable {p : Wb610} {l : LaneNo} {q : Presentation} {lost : Bool}

/-- R123: the opening of a query that no link loss goes before. -/
theorem Wb610.atOpening_of_heard (h : lost = false ∨ p.silence = none) : p.atOpening lost = p := by
  rcases h with rfl | stopped
  · rfl
  · cases lost
    · rfl
    · exact p.silenceTimeout_of_stopped stopped

/-- R123, R185: what the gate is like behind a link loss. -/
theorem Wb610.lostFor_silenceTimeout (hs : p.silence ≠ none) (ho : p.online = true)
    (hx : (p.lane l).OutputsFollow) (hst : (p.lane l).state = .idle) (hslot : (p.lane l).slot = none)
    (hc : (p.lane l).current = some q) :
    p.silenceTimeout.LostFor l (p.lane l) q ∧ p.silenceTimeout.settings = p.settings := by
  obtain ⟨lane, settings, -, offline, -, quiet⟩ := p.silenceTimeout_of_online l hs ho hslot
  have shown : (p.lane l).signals.shown = .ready := by rw [hx.2.1, hst]; rfl
  exact ⟨⟨lane, offline, quiet, hx, shown, hslot, hc⟩, settings⟩

/-- R22: the gate with the hold of a claim taken. -/
theorem Wb610.takeHold_eq (p : Wb610) (l : LaneNo) (k : Key) (purpose : Purpose) :
    p.takeHold l k purpose
      = { p with table := p.table.modify k (Entry.takeHold l purpose) }.setLane l { p.lane l with hold := some k } :=
  rfl

end

section
variable (p : Wb610) (l : LaneNo) {q : Presentation} {lost : Bool} {purpose : Purpose}

theorem Wb610.claim_of_refuse {r : Reason} (hj : judge p.view (p.lane l).config p.table q = .refuse r) :
    p.claim l q lost = p.refuse l r := by
  simp only [Wb610.claim, hj]

theorem Wb610.claim_of_spend (hj : judge p.view (p.lane l).config p.table q = .spendAndRefuse) :
    p.claim l q lost = { p with table := p.table.modify q.key Entry.spend }.refuse l .passoutExpired := by
  simp only [Wb610.claim, hj]

theorem Wb610.claim_of_admit {offline : Bool}
    (hj : judge p.view (p.lane l).config p.table q = .admitHolder purpose offline) :
    p.claim l q lost = (p.takeHold l q.key purpose).admitHolder l false offline := by
  simp only [Wb610.claim, hj]

theorem Wb610.claim_of_unheld {cause : QueryCause}
    (hj : judge p.view (p.lane l).config p.table q = .verifyUnheld cause purpose) :
    p.claim l q lost = (p.atOpening lost).openQuery l q.key purpose cause := by
  simp only [Wb610.claim, hj]

theorem Wb610.claim_of_flagged (hj : judge p.view (p.lane l).config p.table q = .verifyFlagged) :
    p.claim l q lost = ((p.takeHold l q.key .entry).atOpening lost).openQuery l q.key .entry .flagged := by
  simp only [Wb610.claim, hj]

end

/-- Settles O19: the claim by its judgement; a query opened by the link as the opening finds it. -/
theorem claimOutcomeMovesTheLane : Obligations.ClaimOutcomeMovesTheLane := by
  intro p l q lost x counter message asking hx hst hc
  have self : p.setLane l x = p := p.setLane_self l hx
  have online (h : (judge p.view x.config p.table q).asks = true) : p.online = true := judge_online h
  have held : ({ x with hold := some q.key } : Lane).OutputsFollow := hx
  have holds (purpose : Purpose) : (p.takeHold l q.key purpose).lane l = { x with hold := some q.key } := by
    rw [Wb610.takeHold_eq]
    exact Wb610.lane_setLane_of_follows _ l held
  refine ⟨fun r hj => ?_, fun hj => ?_, fun purpose offline hj => ?_, fun cause purpose heard hj => ?_,
    fun heard hj => ?_, fun gone hs hslot => ⟨fun cause purpose hj => ?_, fun hj => ?_⟩⟩
  · have refused := p.refuse_setLane l hx hc r
    rw [self] at refused
    rw [p.claim_of_refuse l hj]
    exact refused
  · have refused := Wb610.refuse_setLane { p with table := p.table.modify q.key Entry.spend } l hx hc .passoutExpired
    rw [p.claim_of_spend l hj]
    conv_lhs => rw [← self]
    exact refused
  · rw [p.claim_of_admit l hj, Wb610.takeHold_eq]
    exact Wb610.admitHolder_setLane _ l held hc false offline
  · rw [p.claim_of_unheld l hj, Wb610.atOpening_of_heard heard, p.openQuery_of_online l (online (by rw [hj]; rfl))]
    rfl
  · have heard' : lost = false ∨ (p.takeHold l q.key .entry).silence = none := heard
    have online' : (p.takeHold l q.key .entry).online = true := online (by rw [hj]; rfl)
    rw [p.claim_of_flagged l hj, Wb610.atOpening_of_heard heard', Wb610.openQuery_of_online _ l online', holds]
    exact Wb610.setLane_setLane
      { p with
        table := p.table.modify q.key (Entry.takeHold l .entry)
        verifyQueue := p.verifyQueue ++ [message .entry .flagged] } l _ _
  · obtain ⟨lostFor, settings⟩ := p.lostFor_silenceTimeout hs (online (by rw [hj]; rfl)) hx hst hslot hc
    refine ⟨p.silenceTimeout, rfl, ?_⟩
    have settled := lostFor.openQuery_unheld (k := q.key) (purpose := purpose) (judge_unflagged hj)
    rw [settings] at settled
    rw [p.claim_of_unheld l hj, gone]
    exact settled
  · intro y
    have hs' : (p.takeHold l q.key .entry).silence ≠ none := hs
    obtain ⟨lostFor, settings⟩ := (p.takeHold l q.key .entry).lostFor_silenceTimeout (l := l) (q := q) hs'
      (online (by rw [hj]; rfl)) (by rw [holds]; exact held) (by rw [holds]; exact hst) (by rw [holds]; exact hslot)
      (by rw [holds]; exact hc)
    rw [holds] at lostFor
    refine ⟨(p.takeHold l q.key .entry).silenceTimeout, rfl, fun hp => ?_, fun hp => ?_⟩
    · have settled := lostFor.openQuery_local (k := q.key) (purpose := .entry) (by rw [settings]; exact hp)
      rw [settings] at settled
      rw [p.claim_of_flagged l hj, gone]
      exact settled
    · have settled := lostFor.openQuery_refuse (k := q.key) (purpose := .entry) (by rw [settings]; exact hp) rfl
      rw [settings] at settled
      rw [p.claim_of_flagged l hj, gone]
      exact settled

end Sys2Proof.Machine
end

