-- ==== Sys2Proof/Proofs/BusPolls.lean ====
section
/-! The card reader bus: the arbiter's choice (R109), polls and misses (R110, R115, R116), answers (R111-R114, R195). -/

namespace Sys2Proof.Machine

/-! ## The arbiter -/

/-- In a list that rises by `f` the first member of a kind is the one with the least `f`. -/
theorem List.find?_of_least {α : Type} {P : α → Bool} {f : α → Nat} {as : List α} (rising : as.Pairwise (f · < f ·))
    {a : α} (hmem : a ∈ as) (ha : P a = true) (least : ∀ b ∈ as, P b = true → f a ≤ f b) : as.find? P = some a := by
  induction as with
  | nil => cases hmem
  | cons b rest ih =>
    obtain ⟨first, rising⟩ := List.pairwise_cons.mp rising
    rcases List.mem_cons.mp hmem with rfl | hrest
    · exact List.find?_cons_of_pos ha
    · have later : f b < f a := first a hrest
      have hb : ¬ P b = true := fun hb => absurd (least b List.mem_cons_self hb) (Nat.not_le.mpr later)
      rw [List.find?_cons_of_neg hb]
      exact ih rising hrest fun c hc => least c (List.mem_cons_of_mem b hc)

/-- R109: how many readers come before a lane's, counted from the one after the pointer. -/
def stepsAfter (pointer l : LaneNo) : Nat := (l.val + 9 - pointer.val) % 10

theorem lanesAfter_rises (pointer : LaneNo) :
    (lanesAfter pointer).Pairwise (stepsAfter pointer · < stepsAfter pointer ·) := by
  revert pointer
  decide

theorem mem_lanesAfter (pointer l : LaneNo) : l ∈ lanesAfter pointer := by
  revert pointer l
  decide

theorem Lane.readerDue_iff (x : Lane) :
    x.readerDue = true ↔ x.config.cardSource = .bus ∧ x.reader.online = false ∧ x.reader.repoll = .runOut := by
  simp [Lane.readerDue, and_assoc]

theorem Lane.readerOnBus_iff (x : Lane) :
    x.readerOnBus = true ↔ x.config.cardSource = .bus ∧ x.reader.online = true := by
  simp [Lane.readerOnBus]

section
variable (p : Wb610) {l : LaneNo}

theorem Wb610.nextReader_of_due (hl : (p.lane l).readerDue = true)
    (least : ∀ m, (p.lane m).readerDue = true → stepsAfter p.pollPointer l ≤ stepsAfter p.pollPointer m) :
    p.nextReader = some l := by
  have chosen := List.find?_of_least (P := fun l => (p.lane l).readerDue) (lanesAfter_rises p.pollPointer)
    (mem_lanesAfter p.pollPointer l) hl fun m _ => least m
  simp only [Wb610.nextReader, chosen]

theorem Wb610.nextReader_of_none_due (h : ∀ m, (p.lane m).readerDue = false) :
    p.nextReader = (lanesAfter p.pollPointer).find? fun l => (p.lane l).readerOnBus := by
  have none_due : (lanesAfter p.pollPointer).find? (fun l => (p.lane l).readerDue) = none :=
    List.find?_eq_none.mpr fun m _ => by simp [h m]
  simp only [Wb610.nextReader, none_due]

end

/-- Settles O43: the first due reader, else the first one ONLINE, by their places after the pointer. -/
theorem busArbiterChooses : Obligations.BusArbiterChooses := by
  intro p due onBus steps polls
  have isDue (m : LaneNo) : (p.lane m).readerDue = true ↔ due m := (p.lane m).readerDue_iff
  have isOnBus (m : LaneNo) : (p.lane m).readerOnBus = true ↔ onBus m := (p.lane m).readerOnBus_iff
  have none_due (h : ∀ m, ¬ due m) (m : LaneNo) : (p.lane m).readerDue = false :=
    Bool.eq_false_iff.mpr fun e => h m ((isDue m).mp e)
  refine ⟨fun hp => ?_, fun hp => ⟨fun l hl least => ?_, fun hn l hl least => ?_, fun hn hb => ?_⟩⟩
  · obtain ⟨m, hm⟩ := Option.ne_none_iff_exists'.mp hp
    exact Wb610.chooseReader_of_poll hm
  · exact Wb610.chooseReader_of_reader hp
      (p.nextReader_of_due ((isDue l).mpr hl) fun m hm => least m ((isDue m).mp hm))
  · refine Wb610.chooseReader_of_reader hp ((p.nextReader_of_none_due (none_due hn)).trans ?_)
    exact List.find?_of_least (lanesAfter_rises p.pollPointer) (mem_lanesAfter p.pollPointer l) ((isOnBus l).mpr hl)
      fun m _ hm => least m ((isOnBus m).mp hm)
  · refine Wb610.chooseReader_of_no_reader ((p.nextReader_of_none_due (none_due hn)).trans ?_)
    exact List.find?_eq_none.mpr fun m _ e => hb m ((isOnBus m).mp e)

/-! ## Polls and misses -/

section
variable (p : Wb610) {l : LaneNo} {w : Ticks} {left : Bool}

/-- R187: a report does not read the poll. -/
theorem Wb610.report_with_poll (m : Option Poll) (k : ReportKind) (o : Option LaneNo) (a b : Nat) (key : ReportKey) :
    { p with poll := m }.report k o a b key = { p.report k o a b key with poll := m } := by
  rw [Wb610.report_eq, Wb610.report_eq]

theorem Wb610.miss_of_few (ho : (p.lane l).reader.online = true) (hm : (p.lane l).reader.misses < 2) :
    p.miss l
      = p.setLane l
          { p.lane l with reader := { (p.lane l).reader with misses := (p.lane l).reader.misses + 1 } } := by
  have few : (p.lane l).reader.misses + 1 < 3 := Nat.succ_lt_succ hm
  simp only [Wb610.miss, Wb610.modLane, ho, few, if_true]

theorem Wb610.miss_of_third (ho : (p.lane l).reader.online = true) (hm : 2 ≤ (p.lane l).reader.misses) :
    p.miss l
      = (p.setLane l
          { p.lane l with
            reader := { online := false, misses := 3, repoll := (p.lane l).startRepoll } }).report .readerOffline
          (some l) 0 3 .none := by
  have third : ¬ (p.lane l).reader.misses + 1 < 3 := by omega
  simp only [Wb610.miss, Wb610.modLane, ho, third, if_true, if_false]

theorem Wb610.miss_of_offline (ho : (p.lane l).reader.online = false) :
    p.miss l
      = p.setLane l { p.lane l with reader := { (p.lane l).reader with repoll := (p.lane l).startRepoll } } := by
  simp only [Wb610.miss, Wb610.modLane, ho, Bool.false_eq_true, if_false]

theorem Wb610.pollWindowExpiry_of_open (h : p.poll = some { lane := l, window := some w, leftBus := left }) :
    p.pollWindowExpiry = (p.miss l).endPoll := by
  simp only [Wb610.pollWindowExpiry, h]

/-- R110: without a window open no poll runs out. -/
theorem Wb610.pollWindowExpiry_of_closed (h : ∀ m, p.poll = some m → m.window = none) : p.pollWindowExpiry = p := by
  unfold Wb610.pollWindowExpiry
  split
  · next l w left open_ => cases h _ open_
  all_goals rfl

theorem Wb610.pollSent_of_going (h : p.poll = some { lane := l, window := none, leftBus := left }) :
    p.pollSent = { p with poll := some { lane := l, window := some 5120, leftBus := left } } := by
  simp only [Wb610.pollSent, h]
  rfl

/-- R110: with no POLL going out none has been sent. -/
theorem Wb610.pollSent_of_gone (h : ∀ m, p.poll = some m → m.window ≠ none) : p.pollSent = p := by
  unfold Wb610.pollSent
  split
  · next l left going => exact absurd rfl (h _ going)
  all_goals rfl

theorem Wb610.repollTimerExpiry_of_running {t : Ticks} (h : (p.lane l).reader.repoll = .running t) :
    p.repollTimerExpiry l
      = (p.setLane l { p.lane l with reader := { (p.lane l).reader with repoll := .runOut } }).chooseReader := by
  simp only [Wb610.repollTimerExpiry, h]
  rfl

theorem Wb610.repollTimerExpiry_of_still
    (h : (p.lane l).reader.repoll = .stopped ∨ (p.lane l).reader.repoll = .runOut) : p.repollTimerExpiry l = p := by
  rcases h with h | h <;> simp only [Wb610.repollTimerExpiry, h]

theorem Wb610.endPoll_setLane (y : Lane) :
    (p.setLane l y).endPoll = ({ p with poll := none }.setLane l y).chooseReader := rfl

theorem Wb610.endPoll_report (k : ReportKind) (o : Option LaneNo) (a b : Nat) (key : ReportKey) :
    (p.report k o a b key).endPoll = ({ p with poll := none }.report k o a b key).chooseReader :=
  congrArg Wb610.chooseReader (p.report_with_poll none k o a b key).symm

end

theorem exec_pollWindowExpiry (s : State) :
    exec .pollWindowExpiry s = .next { s with part := s.part.pollWindowExpiry } := rfl

/-- Settles O44: the window by the poll's phase, the miss by the reader's state. -/
theorem pollsAndMisses : Obligations.PollsAndMisses := by
  intro s l left p x free repoll
  refine ⟨fun h => ⟨?_, ?_⟩, fun w h => ⟨?_, fun ho hm => ?_, fun ho hm => ?_, fun ho => ?_⟩, fun h => ⟨?_, ?_⟩,
    fun t h => ?_, fun h => ?_⟩
  · exact State.next_congr (p.pollSent_of_going h)
  · exact State.next_congr (p.pollWindowExpiry_of_closed fun m hm => by cases h.symm.trans hm; rfl)
  · exact State.next_congr (p.pollSent_of_gone fun m hm => by cases h.symm.trans hm; nofun)
  · exact State.next_congr ((p.pollWindowExpiry_of_open h).trans
      ((congrArg Wb610.endPoll (p.miss_of_few ho hm)).trans (p.endPoll_setLane _)))
  · exact State.next_congr ((p.pollWindowExpiry_of_open h).trans
      ((congrArg Wb610.endPoll (p.miss_of_third ho hm)).trans (Wb610.endPoll_report _ _ _ _ _ _)))
  · exact State.next_congr ((p.pollWindowExpiry_of_open h).trans
      ((congrArg Wb610.endPoll (p.miss_of_offline ho)).trans (p.endPoll_setLane _)))
  · exact State.next_congr (p.pollSent_of_gone fun m hm => by cases h.symm.trans hm)
  · exact State.next_congr (p.pollWindowExpiry_of_closed fun m hm => by cases h.symm.trans hm)
  · exact State.next_congr (p.repollTimerExpiry_of_running h)
  · exact State.next_congr (p.repollTimerExpiry_of_still h)

/-! ## Answer frames -/

section
variable {junk : List Byte} {address kind length check : Byte} {data more : List Byte}

theorem busAnswerOf_append (h : 0xC3#8 ∉ junk) (rest : List Byte) :
    busAnswerOf (junk ++ 0xC3#8 :: rest) = busFrameOf rest := by
  induction junk with
  | nil => rfl
  | cons b junk ih =>
    obtain ⟨ne, tail⟩ := List.ne_and_not_mem_of_not_mem_cons h
    rw [List.cons_append, busAnswerOf, if_neg (Ne.symm ne), ih tail]

theorem busAnswerOf_junk (h : 0xC3#8 ∉ junk) : busAnswerOf junk = .incomplete := by
  induction junk with
  | nil => rfl
  | cons b junk ih =>
    obtain ⟨ne, tail⟩ := List.ne_and_not_mem_of_not_mem_cons h
    rw [busAnswerOf, if_neg (Ne.symm ne), ih tail]

theorem busFrameOf_of_short (hl : length.toNat ≤ 10) (hd : data.length ≤ length.toNat) :
    busFrameOf (address :: kind :: length :: data) = .incomplete := by
  have short : data.length < length.toNat + 1 := by omega
  simp only [busFrameOf, if_neg (Nat.not_lt.mpr hl), if_pos short]

theorem busFrameOf_of_long (hl : 10 < length.toNat) : busFrameOf (address :: kind :: length :: data) = .bad := by
  simp only [busFrameOf, if_pos hl]

section
variable (hl : length.toNat ≤ 10) (hd : data.length = length.toNat)

include hl hd

theorem busFrameOf_of_wrong_check (hc : check ≠ busCheck (address :: kind :: length :: data)) :
    busFrameOf (address :: kind :: length :: (data ++ check :: more)) = .bad := by
  have enough : ¬ (data ++ check :: more).length < length.toNat + 1 := by simp [hd]
  have front : (data ++ check :: more).take length.toNat = data := by rw [← hd, List.take_left]
  have behind : ((data ++ check :: more).drop length.toNat).take 1 = [check] := by rw [← hd, List.drop_left]; rfl
  simp only [busFrameOf, if_neg (Nat.not_lt.mpr hl), if_neg enough, front, behind, List.cons.injEq, and_true,
    if_neg hc]

theorem busFrameOf_of_content {c : BusContent} (hc : check = busCheck (address :: kind :: length :: data))
    (content : busContentOf kind.toNat data = some c) :
    busFrameOf (address :: kind :: length :: (data ++ check :: more)) = .frame address.toNat c := by
  have enough : ¬ (data ++ check :: more).length < length.toNat + 1 := by simp [hd]
  have front : (data ++ check :: more).take length.toNat = data := by rw [← hd, List.take_left]
  have behind : ((data ++ check :: more).drop length.toNat).take 1 = [check] := by rw [← hd, List.drop_left]; rfl
  simp only [busFrameOf, if_neg (Nat.not_lt.mpr hl), if_neg enough, front, behind, List.cons.injEq, and_true,
    if_pos hc, content]

theorem busFrameOf_of_no_content (content : busContentOf kind.toNat data = none) :
    busFrameOf (address :: kind :: length :: (data ++ check :: more)) = .bad := by
  have enough : ¬ (data ++ check :: more).length < length.toNat + 1 := by simp [hd]
  have front : (data ++ check :: more).take length.toNat = data := by rw [← hd, List.take_left]
  simp only [busFrameOf, if_neg (Nat.not_lt.mpr hl), if_neg enough, front, content, ite_self]

end

end

end Sys2Proof.Machine
end

