-- ==== Sys2Proof/Proofs/BusAnswers.lean ====
section
/-! BUS_ANSWER by the content of the frame (R111-R114, R195). -/

namespace Sys2Proof.Machine

/-! ## The content -/

section
variable {kind length : Byte} {data : List Byte}

/-- R111: a kind and a length that agree. -/
abbrev busFormAgrees (kind length : Byte) : Prop :=
  (kind = 0 ∧ length = 0) ∨ (kind = 1 ∧ (length = 4 ∨ length = 7 ∨ length = 10)) ∨ (kind = 2 ∧ length = 1)

theorem length_le_of_busFormAgrees (h : busFormAgrees kind length) : length.toNat ≤ 10 := by
  rcases h with ⟨-, rfl⟩ | ⟨-, rfl | rfl | rfl⟩ | ⟨-, rfl⟩ <;> decide

theorem cardKindOf_of_other {n : Nat} (h4 : n ≠ 4) (h7 : n ≠ 7) (h10 : n ≠ 10) : cardKindOf n = none := by
  unfold cardKindOf
  split
  · exact absurd rfl h4
  · exact absurd rfl h7
  · exact absurd rfl h10
  · rfl

theorem busContentOf_of_disagreeing (hd : data.length = length.toNat) (h : ¬ busFormAgrees kind length) :
    busContentOf kind.toNat data = none := by
  obtain ⟨not_idle, h⟩ := not_or.mp h
  obtain ⟨not_card, not_fault⟩ := not_or.mp h
  have other {n : Byte} (e : length ≠ n) : data.length ≠ n.toNat := fun he => e (BitVec.eq_of_toNat_eq (hd ▸ he))
  unfold busContentOf
  split
  · next hk =>
    have hkind : kind = 0 := BitVec.eq_of_toNat_eq hk
    exact if_neg (other fun e => not_idle ⟨hkind, e⟩)
  · next hk =>
    have hkind : kind = 1 := BitVec.eq_of_toNat_eq hk
    rw [cardKindOf_of_other (other fun e => not_card ⟨hkind, .inl e⟩) (other fun e => not_card ⟨hkind, .inr (.inl e)⟩)
      (other fun e => not_card ⟨hkind, .inr (.inr e)⟩)]
    rfl
  · next hk =>
    have hkind : kind = 2 := BitVec.eq_of_toNat_eq hk
    exact if_neg (other fun e => not_fault ⟨hkind, e⟩)
  · rfl

/-- Bytes with zero bytes behind them stand for the number shifted up. -/
theorem beNatFrom_zeros (acc n : Nat) : beNatFrom acc (List.replicate n 0) = acc * 256 ^ n := by
  induction n generalizing acc with
  | zero => simp [beNatFrom]
  | succ n ih =>
    rw [List.replicate_succ, beNatFrom, ih, pow_succ]
    change (256 * acc + 0) * _ = _
    ring

theorem beNatFrom_append (acc : Nat) (front behind : List Byte) :
    beNatFrom acc (front ++ behind) = beNatFrom (beNatFrom acc front) behind := by
  induction front generalizing acc with
  | nil => rfl
  | cons b front ih => exact ih _

theorem cardKey_eq (kind : KeyKind) (data : List Byte) :
    cardKey kind data
      = { kind := kind, bytes := BitVec.ofNat 80 (beNat (data ++ List.replicate (10 - data.length) 0)) } := by
  rw [cardKey, beNat, beNat, beNatFrom_append, beNatFrom_zeros]

end

/-! ## The answer -/

section
variable (p : Wb610) {l : LaneNo} {w : Ticks} {left lost : Bool} {bytes : List Byte}

theorem Wb610.busBytes_of_closed (h : ∀ l w left, p.poll ≠ some { lane := l, window := some w, leftBus := left }) :
    p.busBytes bytes lost = p := by
  unfold Wb610.busBytes
  split
  · next l w left open_ => exact absurd open_ (h l w left)
  all_goals rfl

theorem Wb610.busBytes_of_incomplete (h : p.poll = some { lane := l, window := some w, leftBus := left })
    (ha : busAnswerOf bytes = .incomplete) : p.busBytes bytes lost = p := by
  simp only [Wb610.busBytes, h, ha]

theorem Wb610.busBytes_of_bad (h : p.poll = some { lane := l, window := some w, leftBus := left })
    (ha : busAnswerOf bytes = .bad) : p.busBytes bytes lost = p.pollWindowExpiry := by
  rw [p.pollWindowExpiry_of_open h]
  simp only [Wb610.busBytes, h, ha]

theorem Wb610.busBytes_of_other {address : Nat} {c : BusContent}
    (h : p.poll = some { lane := l, window := some w, leftBus := left }) (ha : busAnswerOf bytes = .frame address c)
    (other : address ≠ l.val) : p.busBytes bytes lost = p.pollWindowExpiry := by
  rw [p.pollWindowExpiry_of_open h]
  simp only [Wb610.busBytes, h, ha, if_neg other]

theorem Wb610.busBytes_of_good {c : BusContent}
    (h : p.poll = some { lane := l, window := some w, leftBus := left }) (ha : busAnswerOf bytes = .frame l.val c) :
    p.busBytes bytes lost = (p.goodAnswer l left c lost).endPoll := by
  simp only [Wb610.busBytes, h, ha, if_true]

theorem Wb610.goodAnswer_idle : p.goodAnswer l left .idle lost = p.readerAnswers l := rfl

theorem Wb610.goodAnswer_fault (code : Nat) :
    p.goodAnswer l left (.fault code) lost = (p.readerAnswers l).report .readerFault (some l) code 0 .none := rfl

theorem Wb610.goodAnswer_card (k : Key) :
    p.goodAnswer l left (.card k) lost
      = if left then p.readerAnswers l else ((p.readerAnswers l).arrive l { key := k, source := .bus } lost).1 := rfl

end

theorem exec_busAnswer (bytes : List Byte) (lost : Bool) (s : State) :
    exec (.busAnswer bytes lost) s = .next { s with part := s.part.busBytes bytes lost } := rfl

/-- Settles O45: the answer as the receiver finds it, then what it makes of the poll. -/
theorem busAnswersAreTaken : Obligations.BusAnswersAreTaken := by
  intro s junk address kind length data check more lost p
  refine ⟨fun closed bytes => State.next_congr (p.busBytes_of_closed closed), ?_⟩
  intro l w left open_ hjunk x start bytes sound agrees back heard ends
  have short (rest : List Byte) : busAnswerOf (start ++ rest) = busFrameOf (address :: kind :: length :: rest) := by
    simp only [start, List.append_assoc]
    exact busAnswerOf_append hjunk _
  have whole : busAnswerOf bytes = busFrameOf (address :: kind :: length :: (data ++ check :: more)) := by
    simp only [bytes, List.append_assoc]
    exact short _
  refine ⟨?_, fun hl hd => ?_, fun hl => ?_, fun hl hd bad => ?_, fun hd hsound hagrees => ?_⟩
  · exact State.next_congr (p.busBytes_of_incomplete open_ (busAnswerOf_junk hjunk))
  · exact State.next_congr (p.busBytes_of_incomplete open_ ((short data).trans (busFrameOf_of_short hl hd)))
  · exact State.next_congr (p.busBytes_of_bad open_ ((short data).trans (busFrameOf_of_long hl)))
  · refine State.next_congr ?_
    by_cases hcheck : check = busCheck (address :: kind :: length :: data)
    · cases content : busContentOf kind.toNat data with
      | none => exact p.busBytes_of_bad open_ (whole.trans (busFrameOf_of_no_content hl hd content))
      | some c =>
        refine p.busBytes_of_other open_ (whole.trans (busFrameOf_of_content hl hd hcheck content)) fun own => ?_
        refine bad ⟨⟨hcheck, own⟩, ?_⟩
        by_contra disagrees
        rw [busContentOf_of_disagreeing hd disagrees] at content
        cases content
    · exact p.busBytes_of_bad open_ (whole.trans (busFrameOf_of_wrong_check hl hd hcheck))
  · obtain ⟨hcheck, own⟩ := hsound
    have good {c : BusContent} (content : busContentOf kind.toNat data = some c) : ends (p.goodAnswer l left c lost) :=
      State.next_congr (p.busBytes_of_good open_ (whole.trans
        ((busFrameOf_of_content (length_le_of_busFormAgrees hagrees) hd hcheck content).trans (by rw [own]))))
    have answers : p.readerAnswers l = heard := rfl
    have agreed : busFormAgrees kind length := hagrees
    clear_value heard
    refine ⟨fun hk => ?_, fun hk code hdata => ?_, fun hk => ?_⟩
    · subst hk
      have idle : length = 0 := by simpa [busFormAgrees] using agreed
      have taken := good (c := .idle) (if_pos (hd.trans (by rw [idle]; rfl)))
      rwa [p.goodAnswer_idle, answers] at taken
    · subst hk hdata
      have content : busContentOf (2 : Byte).toNat [code] = some (.fault code.toNat) := by
        simp [busContentOf, beNat, beNatFrom]
      have taken := good content
      rwa [p.goodAnswer_fault, answers] at taken
    · subst hk
      intro key
      have lengths : length = 4 ∨ length = 7 ∨ length = 10 := by simpa [busFormAgrees] using agreed
      have content : busContentOf (1 : Byte).toNat data = some (.card key) := by
        have kindOf : cardKindOf data.length
            = some (if length = 4 then .card4 else if length = 7 then .card7 else .card10) := by
          rw [hd]
          rcases lengths with rfl | rfl | rfl <;> rfl
        change (cardKindOf data.length).map (fun k => BusContent.card (cardKey k data)) = _
        rw [kindOf, Option.map_some, cardKey_eq]
      have taken := good content
      rwa [p.goodAnswer_card, answers] at taken

end Sys2Proof.Machine
end

