-- ==== Sys2Proof/Proofs/Sweeps.lean ====
section
/-! The table sweep, visit by visit (R137-R144), and the memory fault (R5). -/

namespace Sys2Proof.Machine

/-! ## A visit -/

section
variable (p : Wb610) (b : Nat)

theorem Wb610.reportExpired_eq (gone : List Entry) :
    p.reportExpired b gone = gone.foldl (fun q e => q.report .passoutExpired none 0 b (.credential e.key)) p := by
  induction gone generalizing p with
  | nil => rfl
  | cons e rest ih => exact ih _

/-- R140: the conversion, told from the entries of the bucket and the clock. -/
theorem Wb610.convertExpired_eq {es : List Entry} {clock : Option Nat} (hes : (p.table.bucket b).entries = es)
    (hc : p.clock = clock) :
    p.convertExpired b
      = if es.filter (Entry.expired clock) = [] then p
        else
          (es.filter (Entry.expired clock)).foldl
            (fun q e => q.report .passoutExpired none 0 b (.credential e.key))
            { p with table := p.table.writeEntries b (es.map fun e => if e.expired clock then e.spend else e) } := by
  subst hes hc
  simp only [Wb610.convertExpired, List.isEmpty_iff, Wb610.reportExpired_eq]

theorem Wb610.compareBucket_clock : (p.compareBucket b).clock = p.clock := by
  unfold Wb610.compareBucket
  dsimp only
  split
  · rw [Wb610.report_clock]
  · rfl

/-- R138, R139: the comparison marks a bucket and leaves its entries. -/
theorem Wb610.compareBucket_entries (s : p.table.Sound) :
    ((p.compareBucket b).table.bucket b).entries = (p.table.bucket b).entries := by
  unfold Wb610.compareBucket
  dsimp only
  split
  · rw [Wb610.report_table, Table.bucket_setBucket_same _ _ _ s.1]
  · rfl

theorem Wb610.visit_eq :
    p.visit
      = { (p.compareBucket p.sweepPointer.val).convertExpired p.sweepPointer.val with
          sweepPointer := nextBucket p.sweepPointer } := rfl

theorem Wb610.sweepVisit_of_paced {t : Ticks} (h : p.visitTimer = some t) :
    p.sweepVisit = { p.visit with visitTimer := some (125 * p.settings.sweepPeriod) } := by
  simp only [Wb610.sweepVisit, h]
  rfl

theorem Wb610.sweepVisit_of_fast (h : p.visitTimer = none) : p.sweepVisit = p := by
  simp only [Wb610.sweepVisit, h]

end

/-- Settles O46: the comparison, then the conversion on the entries it left. -/
theorem visitComparesThenConverts : Obligations.VisitComparesThenConverts := by
  intro s p b v compared ranOut gone converted sound
  refine ⟨?_, fun t h => State.next_congr (p.sweepVisit_of_paced h), fun h => State.next_congr (p.sweepVisit_of_fast h)⟩
  have hcompared : p.compareBucket b = compared := rfl
  have expired : Entry.expired p.clock = ranOut := by
    funext e
    cases hst : e.state <;> cases hc : p.clock <;> simp [Entry.expired, ranOut, hst, hc]
  have convert := (p.compareBucket b).convertExpired_eq b (p.compareBucket_entries b sound) (p.compareBucket_clock b)
  rw [expired, hcompared] at convert
  have hconverted : (p.compareBucket b).convertExpired b = converted := by
    rw [hcompared]
    exact convert
  clear_value converted
  rw [Wb610.visit_eq, hconverted]
  rfl

/-! ## Fast passes -/

section
variable (p : Wb610)

theorem Wb610.visit_settings : p.visit.settings = p.settings := p.inCycle_visited.settings

theorem Wb610.visit_fastCount : p.visit.fastCount = p.fastCount := p.inCycle_visited.fastCount

theorem Wb610.visit_fastStart : p.visit.fastStart = p.fastStart := p.inCycle_visited.fastStart

/-- R143: a visit of a fast pass, the bucket counted that it leaves SUSPECT. -/
def Wb610.countedVisit (p : Wb610) : Wb610 :=
  { p.visit with
    fastCount := p.fastCount + (if (p.visit.table.bucket p.sweepPointer.val).suspect then 1 else 0) }

theorem Wb610.fastPassVisit_of_paced (h : p.fastPass = false) : p.fastPassVisit = p := by
  simp only [Wb610.fastPassVisit, h, Bool.false_eq_true, if_false]

theorem Wb610.fastPassVisit_of_fast (h : p.fastPass = true) :
    p.fastPassVisit
      = if (p.sweepPointer.val + 1) % 4096 = p.fastStart.val then p.countedVisit.endFastPass else p.countedVisit := by
  have counted : ({ p.visit with
      fastCount := p.visit.fastCount + (p.visit.table.bucket p.sweepPointer.val).suspect.toNat } : Wb610)
        = p.countedVisit := by
    rw [Wb610.visit_fastCount, Wb610.countedVisit]
    cases (p.visit.table.bucket p.sweepPointer.val).suspect <;> rfl
  have back : p.visit.sweepPointer = p.visit.fastStart ↔ (p.sweepPointer.val + 1) % 4096 = p.fastStart.val := by
    rw [Fin.ext_iff, Wb610.visit_fastStart]
    rfl
  simp only [Wb610.fastPassVisit, h, if_true, counted, back]

theorem Wb610.endFastPass_of_settings {c : Settings} (h : p.settings = c) (n : Nat) :
    ({ p with fastCount := n } : Wb610).endFastPass
      = ({ p with fastCount := n, fastPass := false, visitTimer := some (125 * c.sweepPeriod) } : Wb610).report
          .sweepDone none 0 n .none := by
  subst h
  rfl

end

/-- Settles O47. -/
theorem fastPassVisitsEveryBucket : Obligations.FastPassVisitsEveryBucket := by
  refine ⟨fun s f rest taken htype hp => ⟨fun slow => ?_, fun fast => ?_⟩, fun s => ?_⟩
  · have begun : ({ s.part with rxBuffer := rest } : Wb610).sweepNow f
        = ({ s.part with rxBuffer := rest } : Wb610).beginFastPass.respond f .ok [] :=
      if_neg (by rw [slow]; exact Bool.false_ne_true)
    exact taken.act_serveFixed (code := .ok) htype (by rw [hp]; rfl) _ (by rfl) begun
  · have refused : ({ s.part with rxBuffer := rest } : Wb610).sweepNow f
        = ({ s.part with rxBuffer := rest } : Wb610).respond f .wrongState [] := if_pos fast
    exact taken.act_serveFixed (code := .wrongState) htype (by rw [hp]; rfl) _ (by rfl) refused
  · intro p q count
    refine ⟨fun slow => ?_, fun fast on => ?_, fun fast back => ?_⟩
    · exact State.next_congr (p.fastPassVisit_of_paced slow)
    · exact State.next_congr ((p.fastPassVisit_of_fast fast).trans (if_neg on))
    · refine State.next_congr ((p.fastPassVisit_of_fast fast).trans ((if_pos back).trans ?_))
      exact p.visit.endFastPass_of_settings p.visit_settings count

/-! ## Memory faults -/

theorem disturbEntries_eq (es : List Entry) (ds : List Disturbance) :
    disturbEntries es ds = es.mapIdx fun i e => (ds[i]?).elim e fun d => e.disturb d := by
  induction es generalizing ds with
  | nil => cases ds <;> rfl
  | cons e es ih =>
    cases ds with
    | nil => simp [disturbEntries, List.mapIdx_eq_zipIdx_map]
    | cons d ds => simp [disturbEntries, ih, List.mapIdx_cons]

theorem Disturbance.inRange_iff (d : Disturbance) :
    d.inRange = true
      ↔ (∀ w ∈ d.window, w.fromMinute ≤ w.untilMinute ∧ w.untilMinute ≤ 4319)
        ∧ (∀ u ∈ d.lastUse, u.time ≤ 259199) ∧ d.expiry ≤ 273599 := by
  simp [Disturbance.inRange, Window.inRange, LastUse.inRange, Config.minuteMax, Config.clockMax, Config.expiryMax,
    Option.all_eq_true, and_assoc]

/-- Settles O48. -/
theorem memoryFaultDisturbsOneBucket : Obligations.MemoryFaultDisturbsOneBucket := by
  intro s b values code v within
  have range : values.all Disturbance.inRange = true ↔ within := by
    simp only [List.all_eq_true, Disturbance.inRange_iff]
    rfl
  have step : exec (.memoryFault b values code) s = .next { s with part := s.part.memoryFault b values code } := rfl
  rw [step]
  refine ⟨fun h => State.next_congr ?_, fun h => State.next_congr (if_neg fun e => h (range.mp e))⟩
  refine (if_pos (range.mpr h)).trans ?_
  rw [disturbEntries_eq]
  refine congrArg (fun g => ({ s.part with
    table := s.part.table.setBucket b.val
      { entries := v.entries.mapIdx g, code := code, suspect := v.suspect } } : Wb610)) ?_
  funext i e
  cases values[i]? with
  | none => rfl
  | some d =>
    refine congrArg (fun st : EntryState => ({ e with
      cls := d.cls, groups := d.groups, window := d.window, verify := d.verify
      lastUse := d.lastUse, state := st } : Entry)) ?_
    cases e.state with
    | held h =>
      obtain ⟨lane, purpose, prior, revokePending, enteredElsewhere⟩ := h
      cases prior <;> rfl
    | _ => rfl

end Sys2Proof.Machine
end

