-- ==== Sys2Proof/Proofs/Arbiter.lean ====
section
/-! The transmit arbiter (R186-R188, R193). -/

namespace Sys2Proof.Machine

section
variable (p : Wb610)

theorem Wb610.sendingRestartResponse_iff :
    p.sendingRestartResponse = true
      ↔ p.handler = .awaitingRestartResponse
        ∧ ∃ tag, p.sending = some { type := 0xD0#8, tag := tag, payload := [0] } := by
  have response (f : Frame) :
      f.isRestartResponse = true ↔ ∃ tag, f = { type := 0xD0#8, tag := tag, payload := [0] } := by
    obtain ⟨type, tag, payload⟩ := f
    simp [Frame.isRestartResponse]
  rw [Wb610.sendingRestartResponse, Bool.and_eq_true, decide_eq_true_iff]
  refine and_congr_right fun _ => ?_
  cases p.sending with
  | none => simp
  | some f => simp [response f]

theorem Wb610.arbiter_of_onLine (h : p.sendingRestartResponse = true) : p.arbiter = p := if_pos h

theorem Wb610.restartResponseSent_of_not (h : ¬ p.sendingRestartResponse = true) : p.restartResponseSent = p :=
  if_neg h

section
variable {p} (h : ¬ p.sendingRestartResponse = true)
include h

theorem Wb610.arbiter_of_response {f : Frame} {rest : List Frame} (hr : p.responses = f :: rest) :
    p.arbiter = { p with responses := rest, sending := some f } := by
  rw [Wb610.arbiter, if_neg h, hr]

theorem Wb610.arbiter_of_query {m : VerifyMessage} {rest : List VerifyMessage} (hr : p.responses = [])
    (hv : p.verifyQueue = m :: rest) :
    p.arbiter = { p with verifyQueue := rest, sending := some m.frame } := by
  rw [Wb610.arbiter, if_neg h, hr, hv]

theorem Wb610.arbiter_of_report {r : Report} {rest : List Report} (hr : p.responses = []) (hv : p.verifyQueue = [])
    (ho : p.online = true) (hp : p.reports = r :: rest) : p.arbiter = p.takeReport r rest := by
  rw [Wb610.arbiter, if_neg h, hr, hv, ho, hp]

theorem Wb610.arbiter_of_quiet (hr : p.responses = []) (hv : p.verifyQueue = [])
    (hq : p.online = false ∨ p.reports = []) : p.arbiter = { p with sending := none } := by
  rw [Wb610.arbiter, if_neg h, hr, hv]
  cases ho : p.online with
  | false => rfl
  | true =>
    have empty : p.reports = [] := hq.resolve_left (by simp [ho])
    rw [empty]

end

/-- R187, R188: the report taken leaves the place its drop count is told in. -/
theorem Wb610.takeReport_of_room (r : Report) {rest : List Report} (h : rest.length < 128) :
    p.takeReport r rest
      = { p with
          reports :=
            if p.dropCount = 0 then rest
            else
              rest
                ++ [{ kind := .reportsDropped, lane := none, time := p.clock, reason := 0, count := p.dropCount
                      key := .none }]
          dropCount := 0
          handler := if r.kind = .start ∧ p.handler = .awaitingStart then .ready else p.handler
          sending := some r.frame } := by
  by_cases hd : p.dropCount = 0
  · rw [Wb610.takeReport, if_pos hd, if_pos hd, ← hd]
  · rw [Wb610.takeReport, if_neg hd, if_neg hd]
    exact Wb610.placeReport_of_room _ _ h

end

/-- Settles O52. -/
theorem arbiterTakesByPriority : Obligations.ArbiterTakesByPriority := by
  intro s p onLine
  have sending : p.sendingRestartResponse = true ↔ onLine := p.sendingRestartResponse_iff
  refine ⟨fun on => ?_, fun off => ?_⟩
  · have response : p.sendingRestartResponse = true := sending.mpr on
    exact ⟨State.next_congr (p.arbiter_of_onLine response), State.next_congr (if_pos response)⟩
  · have free : ¬ p.sendingRestartResponse = true := fun h => off (sending.mp h)
    refine ⟨State.next_congr (p.restartResponseSent_of_not free), fun f rest hr => ?_, fun m rest hr hv => ?_,
      fun r rest hr hv ho hp room => ?_, fun hr hv hq => ?_⟩
    · exact State.next_congr (Wb610.arbiter_of_response free hr)
    · exact State.next_congr (Wb610.arbiter_of_query free hr hv)
    · have freed : rest.length < 128 := by
        rw [hp] at room
        exact room
      exact State.next_congr ((Wb610.arbiter_of_report free hr hv ho hp).trans (p.takeReport_of_room r freed))
    · exact State.next_congr (Wb610.arbiter_of_quiet free hr hv hq)

end Sys2Proof.Machine
end

