-- ==== Sys2Proof/Proofs/FieldReads.lean ====
section
/-! SUPPORT. Fields read out of bytes laid one behind the other (R194). -/

namespace Sys2Proof.Machine

section
variable (front behind : List Byte)

theorem beNatFrom_lt (acc : Nat) (bytes : List Byte) : beNatFrom acc bytes < (acc + 1) * 256 ^ bytes.length := by
  induction bytes generalizing acc with
  | nil => simp [beNatFrom]
  | cons b bytes ih =>
    have digit := b.isLt
    calc beNatFrom (256 * acc + b.toNat) bytes
      _ < (256 * acc + b.toNat + 1) * 256 ^ bytes.length := ih _
      _ ≤ ((acc + 1) * 256) * 256 ^ bytes.length := Nat.mul_le_mul_right _ (by omega)
      _ = (acc + 1) * 256 ^ (bytes.length + 1) := by ring

theorem fieldAt_lt (bytes : List Byte) (off size : Nat) : fieldAt bytes off size < 256 ^ size := by
  have short : ((bytes.drop off).take size).length ≤ size := List.length_take_le _ _
  calc fieldAt bytes off size
    _ < (0 + 1) * 256 ^ ((bytes.drop off).take size).length := beNatFrom_lt 0 _
    _ ≤ 256 ^ size := by
      rw [Nat.zero_add, Nat.one_mul]
      exact Nat.pow_le_pow_right (by decide) short

theorem fieldAt_behind {n : Nat} (h : front.length = n) (off size : Nat) :
    fieldAt (front ++ behind) (n + off) size = fieldAt behind off size := by
  rw [fieldAt, fieldAt, ← h, List.drop_length_add_append]

theorem fieldAt_front {off size : Nat} (h : off + size ≤ front.length) :
    fieldAt (front ++ behind) off size = fieldAt front off size := by
  rw [fieldAt, fieldAt, List.drop_append_of_le_length (by omega),
    List.take_append_of_le_length (by rw [List.length_drop]; omega)]

theorem fieldAt_cons (b : Byte) (bytes : List Byte) (off size : Nat) :
    fieldAt (b :: bytes) (off + 1) size = fieldAt bytes off size := rfl

theorem fieldAt_beBytes {size n : Nat} (h : n < 256 ^ size) : fieldAt (beBytes size n ++ behind) 0 size = n := by
  rw [fieldAt_front _ _ (by rw [beBytes_length]; omega), fieldAt, List.drop_zero,
    List.take_of_length_le (beBytes_length size n).le, beNat, beNatFrom_beBytes, Nat.zero_mul, Nat.zero_add,
    Nat.mod_eq_of_lt h]

theorem fieldAt_byte {n : Nat} (h : n < 256) (bytes : List Byte) : fieldAt (byte n :: bytes) 0 1 = n := by
  rw [show fieldAt (byte n :: bytes) 0 1 = (byte n).toNat from byteAt_head _ _]
  simp only [byte, BitVec.toNat_ofNat]
  omega

theorem ofNat_byteAt (bytes : List Byte) (n : Nat) : BitVec.ofNat 8 (byteAt bytes n) = bytes.getD n 0 := by
  induction bytes generalizing n with
  | nil => simp [byteAt, fieldAt, beNat, beNatFrom]
  | cons b bytes ih =>
    cases n with
    | zero => simp [byteAt_head]
    | succ n =>
      rw [byteAt_cons, ih]
      rfl

end

end Sys2Proof.Machine
end

