-- ==== Sys2Proof/Proofs/Receiver.lean ====
section
/-! The receiver, byte by byte (R180-R182, R185). -/

namespace Sys2Proof.Machine

section
variable {p : Wb610} {b : Byte}

theorem Wb610.receiveByte_of_hunting (h : p.receiver = .hunting) (lineError : Bool) :
    p.receiveByte b lineError
      = if b = startByte ∧ lineError = false then { p with receiver := .receiving [] 10240 } else p := by
  rw [Wb610.receiveByte, h]
  rfl

theorem Wb610.gapTimeout_of_hunting (h : p.receiver = .hunting) : p.gapTimeout = p := by
  rw [Wb610.gapTimeout, h]

variable {stored : List Byte} {gap : Ticks}

theorem Wb610.receiveByte_of_receiving (h : p.receiver = .receiving stored gap) (lineError : Bool) :
    p.receiveByte b lineError = if lineError then p.discardFrame 1 else p.storeByte (stored ++ [b]) := by
  rw [Wb610.receiveByte, h]

theorem Wb610.gapTimeout_of_receiving (h : p.receiver = .receiving stored gap) : p.gapTimeout = p.discardFrame 2 := by
  rw [Wb610.gapTimeout, h]

/-! ## A byte stored -/

variable {got : List Byte}

/-- R181: a LENGTH and what follows it, the frame not complete. -/
theorem Wb610.storeByte_of_short (h : got.length < 2) : p.storeByte got = { p with receiver := .receiving got 10240 } :=
  if_pos h

section
variable (h2 : 2 ≤ got.length)
include h2

theorem Wb610.storeByte_of_bad_length (h : fieldAt got 0 2 < 2 ∨ 802 < fieldAt got 0 2) :
    p.storeByte got = p.discardFrame 3 :=
  (if_neg (by omega)).trans (if_pos h)

variable (hmin : 2 ≤ fieldAt got 0 2) (hmax : fieldAt got 0 2 ≤ 802)
include hmin hmax

theorem Wb610.storeByte_of_incomplete (h : got.length < fieldAt got 0 2 + 4) :
    p.storeByte got = { p with receiver := .receiving got 10240 } :=
  (if_neg (by omega)).trans ((if_neg (by omega)).trans (if_pos h))

theorem Wb610.storeByte_of_complete (h : fieldAt got 0 2 + 4 ≤ got.length) :
    p.storeByte got
      = if (crc16 (got.take (fieldAt got 0 2 + 2))).toNat = fieldAt got (fieldAt got 0 2 + 2) 2 then
          p.validFrame
            { type := got.getD 2 0, tag := got.getD 3 0, payload := (got.drop 4).take (fieldAt got 0 2 - 2) }
        else p.discardFrame 4 := by
  have check (n : Nat) : crc16 (got.take n) = BitVec.ofNat 16 (fieldAt got n 2)
      ↔ (crc16 (got.take n)).toNat = fieldAt got n 2 := by
    have field : fieldAt got n 2 < 2 ^ 16 := fieldAt_lt got n 2
    rw [BitVec.toNat_eq, BitVec.toNat_ofNat, Nat.mod_eq_of_lt field]
  rw [← ofNat_byteAt, ← ofNat_byteAt]
  refine (if_neg (by omega)).trans ((if_neg (by omega)).trans ((if_neg (by omega)).trans ?_))
  exact if_congr (check _) rfl rfl

end

variable {f : Frame}

theorem Settings.silenceTime_eq (c : Settings) : c.silenceTime = 512000 * c.silenceTimeout :=
  (Nat.mul_assoc 512 1000 _).symm

/-- R185: the silence timer restarted, the link ONLINE. -/
theorem Wb610.hostHeard_eq (p : Wb610) :
    p.hostHeard
      = if p.online then { p with silence := some (512000 * p.settings.silenceTimeout) }
        else
          { p with silence := some (512000 * p.settings.silenceTimeout), online := true }.report .link none 1 0
            .none := by
  simp only [Wb610.hostHeard, Settings.silenceTime_eq]

theorem Wb610.validFrame_of_room (h : p.hostHeard.rxBuffer.length < 2) :
    p.validFrame f = { p.hostHeard with receiver := .hunting, rxBuffer := p.hostHeard.rxBuffer ++ [f] } :=
  if_pos h

theorem Wb610.validFrame_of_full (h : 2 ≤ p.hostHeard.rxBuffer.length) :
    p.validFrame f = p.hostHeard.discardFrame 5 :=
  if_neg (Nat.not_lt.mpr h)

end

/-- Settles O51. -/
theorem receiverBuildsFrames : Obligations.ReceiverBuildsFrames := by
  intro s b lineError p discarded
  refine ⟨fun hunting => ⟨?_, ?_⟩, fun stored gap receiving => ?_⟩
  · exact State.next_congr (Wb610.receiveByte_of_hunting hunting lineError)
  · exact State.next_congr (Wb610.gapTimeout_of_hunting hunting)
  intro got length goesOn heard
  have hears : p.hostHeard = heard := p.hostHeard_eq
  have step : p.receiveByte b lineError = if lineError then p.discardFrame 1 else p.storeByte got :=
    Wb610.receiveByte_of_receiving receiving lineError
  refine ⟨State.next_congr (Wb610.gapTimeout_of_receiving receiving), fun err => ?_, fun clean => ?_⟩
  · exact State.next_congr (step.trans (if_pos err))
  have stores : p.receiveByte b lineError = p.storeByte got := step.trans (if_neg (by simp [clean]))
  refine ⟨fun short => ?_, fun h2 bad => ?_, fun hmin hmax h2 more => ?_, fun hmin hmax whole => ?_⟩
  · exact State.next_congr (stores.trans (Wb610.storeByte_of_short short))
  · exact State.next_congr (stores.trans (Wb610.storeByte_of_bad_length h2 bad))
  · exact State.next_congr (stores.trans (Wb610.storeByte_of_incomplete h2 hmin hmax more))
  · have h2 : 2 ≤ got.length := by omega
    have complete := stores.trans (Wb610.storeByte_of_complete h2 hmin hmax whole)
    refine ⟨fun wrong => State.next_congr (complete.trans (if_neg wrong)), fun right => ?_⟩
    have valid := complete.trans (if_pos right)
    rw [← hears]
    exact ⟨fun room => State.next_congr (valid.trans (Wb610.validFrame_of_room room)),
      fun full => State.next_congr (valid.trans (Wb610.validFrame_of_full full))⟩

end Sys2Proof.Machine
end

