-- ==== Sys2Proof/Proofs/FrameArrival.lean ====
section
/-! A frame that goes over the line byte by byte (R179-R182). -/

namespace Sys2Proof.Machine

/-! ## The fields of a frame's bytes -/

section
variable (f : Frame)

theorem Frame.checkedBytes_length : f.checkedBytes.length = f.length + 2 := by
  simp only [Frame.checkedBytes, Frame.length, List.length_append, beBytes_length, List.length_cons, List.length_nil]
  omega

theorem Frame.bytesAfterStart_length : f.bytesAfterStart.length = f.length + 4 := by
  rw [Frame.bytesAfterStart, List.length_append, beBytes_length, f.checkedBytes_length]

theorem Frame.bytes_length : f.bytes.length = f.payload.length + 7 := by
  rw [Frame.bytes, List.length_cons, f.bytesAfterStart_length]
  rfl

/-- R179: LENGTH can be read as soon as its two bytes are there. -/
theorem Frame.fieldAt_length {front rest : List Byte} (hf : front ++ rest = f.bytesAfterStart)
    (h2 : 2 ≤ front.length) (hl : f.length < 65536) : fieldAt front 0 2 = f.length := by
  rw [← fieldAt_front front rest h2, hf, Frame.bytesAfterStart, Frame.checkedBytes, List.append_assoc, List.append_assoc]
  exact fieldAt_beBytes _ hl

theorem Frame.take_checkedBytes : f.bytesAfterStart.take (f.length + 2) = f.checkedBytes :=
  List.take_left' f.checkedBytes_length

theorem Frame.fieldAt_check : fieldAt f.bytesAfterStart (f.length + 2) 2 = (crc16 f.checkedBytes).toNat := by
  have field := fieldAt_beBytes (size := 2) [] (crc16 f.checkedBytes).isLt
  rw [List.append_nil] at field
  rw [Frame.bytesAfterStart]
  exact (fieldAt_behind _ _ f.checkedBytes_length 0 2).trans field

theorem Frame.read_bytesAfterStart :
    ({ type := f.bytesAfterStart.getD 2 0, tag := f.bytesAfterStart.getD 3 0
       payload := (f.bytesAfterStart.drop 4).take (f.length - 2) } : Frame) = f := by
  have laid : f.bytesAfterStart
      = BitVec.ofNat 8 (f.length / 256) :: BitVec.ofNat 8 f.length :: f.type :: f.tag
        :: (f.payload ++ beBytes 2 (crc16 f.checkedBytes).toNat) := by
    simp [Frame.bytesAfterStart, Frame.checkedBytes, beBytes]
  have payload : (f.payload ++ beBytes 2 (crc16 f.checkedBytes).toNat).take (f.length - 2) = f.payload :=
    List.take_left' rfl
  rw [laid]
  exact congrArg (Frame.mk f.type f.tag) payload

end

/-! ## The frame heard -/

section
variable (p : Wb610)

theorem Wb610.report_with_receiver (r : Receiver) (k : ReportKind) (o : Option LaneNo) (a b : Nat) (key : ReportKey) :
    { p with receiver := r }.report k o a b key = { p.report k o a b key with receiver := r } := by
  rw [Wb610.report_eq, Wb610.report_eq]

theorem Wb610.hostHeard_with_receiver (r : Receiver) :
    ({ p with receiver := r } : Wb610).hostHeard = { p.hostHeard with receiver := r } := by
  unfold Wb610.hostHeard
  split
  · rfl
  · exact Wb610.report_with_receiver { p with silence := some p.settings.silenceTime, online := true } ..

theorem Wb610.hostHeard_rxBuffer : p.hostHeard.rxBuffer = p.rxBuffer := by
  unfold Wb610.hostHeard
  split
  · rfl
  · rw [Wb610.report_rxBuffer]

/-- R180: the frame is not complete while bytes of it are missing. -/
theorem Wb610.storeByte_of_more {f : Frame} (hlen : f.payload.length ≤ 800) {got rest : List Byte} (hr : rest ≠ [])
    (hf : got ++ rest = f.bytesAfterStart) : p.storeByte got = { p with receiver := .receiving got 10240 } := by
  have total := congrArg List.length hf
  have missing := List.length_pos_of_ne_nil hr
  rw [List.length_append, f.bytesAfterStart_length] at total
  have hl : f.length = f.payload.length + 2 := rfl
  by_cases h2 : got.length < 2
  · exact Wb610.storeByte_of_short h2
  · have length := f.fieldAt_length hf (by omega) (by omega)
    exact Wb610.storeByte_of_incomplete (by omega) (by omega) (by omega) (by omega)

/-- R182: the last byte of the CHECK. -/
theorem Wb610.storeByte_of_last {f : Frame} (hlen : f.payload.length ≤ 800) :
    p.storeByte f.bytesAfterStart = p.validFrame f := by
  have total := f.bytesAfterStart_length
  have hl : f.length = f.payload.length + 2 := rfl
  have length := f.fieldAt_length (List.append_nil _) (by omega) (by omega)
  have complete := Wb610.storeByte_of_complete (p := p) (got := f.bytesAfterStart) (by omega) (by omega) (by omega)
    (by omega)
  rw [length, f.take_checkedBytes, f.fieldAt_check, if_pos rfl, f.read_bytesAfterStart] at complete
  exact complete

end

theorem execAll_cons_of_next {c : Instr} {s t : State} (h : exec c s = .next t) (rest : List Instr) :
    execAll (c :: rest) s = execAll rest t := by
  rw [execAll, h]

theorem exec_receiverByte_of {b : Byte} {s : State} {q : Wb610} (h : s.part.receiveByte b false = q) :
    exec (.receiverByte b false) s = .next { s with part := q } :=
  State.next_congr h

/-- R180: the rest of a frame, byte by byte, behind what has been stored of it. -/
theorem execAll_rest_of_frame {f : Frame} (hlen : f.payload.length ≤ 800) {s : State}
    (room : s.part.rxBuffer.length < 2) {stored rest : List Byte} {b : Byte} {gap : Ticks}
    (hr : s.part.receiver = .receiving stored gap) (hf : stored ++ b :: rest = f.bytesAfterStart) :
    execAll ((b :: rest).map fun b => .receiverByte b false) s
      = .next { s with
          part := { s.part.hostHeard with receiver := .hunting, rxBuffer := s.part.rxBuffer ++ [f] } } := by
  have laid : (stored ++ [b]) ++ rest = f.bytesAfterStart := by rw [List.append_assoc, List.singleton_append, hf]
  have stores : s.part.receiveByte b false = s.part.storeByte (stored ++ [b]) :=
    Wb610.receiveByte_of_receiving hr false
  induction rest generalizing s stored b gap with
  | nil =>
    rw [List.append_nil] at laid
    rw [laid, Wb610.storeByte_of_last _ hlen, Wb610.validFrame_of_room (by rwa [Wb610.hostHeard_rxBuffer]),
      Wb610.hostHeard_rxBuffer] at stores
    exact execAll_cons_of_next (exec_receiverByte_of stores) []
  | cons c rest ih =>
    rw [Wb610.storeByte_of_more _ hlen (List.cons_ne_nil c rest) laid] at stores
    have arrives := ih (s := { s with part := { s.part with receiver := .receiving (stored ++ [b]) 10240 } }) room rfl
      laid (by rw [List.append_assoc]; exact laid) (Wb610.receiveByte_of_receiving rfl false)
    rw [Wb610.hostHeard_with_receiver] at arrives
    exact (execAll_cons_of_next (exec_receiverByte_of stores) _).trans arrives

/-- Settles O53: START, then the rest of the frame. -/
theorem frameArrivesByteByByte : Obligations.FrameArrivesByteByByte := by
  intro s f hlen hunting room
  refine ⟨f.bytes_length, ?_⟩
  have start : s.part.receiveByte startByte false = { s.part with receiver := .receiving [] 10240 } :=
    (Wb610.receiveByte_of_hunting hunting false).trans (if_pos ⟨rfl, rfl⟩)
  have started := execAll_cons_of_next (exec_receiverByte_of start)
    (f.bytesAfterStart.map fun b => .receiverByte b false)
  rw [← s.part.hostHeard_eq]
  refine started.trans ?_
  cases hb : f.bytesAfterStart with
  | nil => simpa [hb] using f.bytesAfterStart_length
  | cons b rest =>
    have arrives := execAll_rest_of_frame hlen (s := { s with part := { s.part with receiver := .receiving [] 10240 } })
      room (stored := []) rfl hb.symm
    rw [Wb610.hostHeard_with_receiver] at arrives
    exact arrives

end Sys2Proof.Machine
end

