-- ==== Sys2Proof/Proofs/Records.lean ====
section
/-! The records the part writes: where each field stands (R178, R194), the bucket numbers and the CRC-16. -/

namespace Sys2Proof.Machine

/-! ## Reading past a part of a record -/

section
variable (behind : List Byte)

theorem fieldAt_past {front : List Byte} {n off size : Nat} (h : front.length = n) (ho : n ≤ off) :
    fieldAt (front ++ behind) off size = fieldAt behind (off - n) size := by
  obtain ⟨k, rfl⟩ := Nat.exists_eq_add_of_le ho
  rw [fieldAt_behind _ _ h, Nat.add_sub_cancel_left]

theorem fieldAt_past_beBytes {k n off size : Nat} (ho : k ≤ off) :
    fieldAt (beBytes k n ++ behind) off size = fieldAt behind (off - k) size :=
  fieldAt_past behind (beBytes_length k n) ho

theorem fieldAt_past_key {k : Key} {off size : Nat} (ho : 11 ≤ off) :
    fieldAt (k.record ++ behind) off size = fieldAt behind (off - 11) size :=
  fieldAt_past behind k.record_length ho

theorem fieldAt_drop (bytes : List Byte) (n off size : Nat) :
    fieldAt (bytes.drop n) off size = fieldAt bytes (n + off) size := by
  rw [fieldAt, fieldAt, List.drop_drop]

theorem fieldAt_all {size n : Nat} (h : n < 256 ^ size) : fieldAt (beBytes size n) 0 size = n := by
  have read := fieldAt_beBytes [] h
  rwa [List.append_nil] at read

end

theorem fieldAt_head (b : Byte) (bytes : List Byte) : fieldAt (b :: bytes) 0 1 = b.toNat := byteAt_head b bytes

theorem byte_toNat {n : Nat} (h : n < 256) : (byte n).toNat = n := by
  simp only [byte, BitVec.toNat_ofNat]
  omega

/-! ## Codes fit a byte -/

theorem KeyKind.code_lt (k : KeyKind) : k.code < 256 := by cases k <;> decide

theorem Purpose.code_lt (u : Purpose) : u.code < 256 := by cases u <;> decide

theorem QueryCause.code_lt (c : QueryCause) : c.code < 256 := by cases c <;> decide

theorem ReportKind.code_lt (k : ReportKind) : k.code < 256 := by cases k <;> decide

/-! ## Keys -/

section
variable (k : Key)

theorem Key.fieldAt_kind : fieldAt k.record 0 1 = k.kind.code :=
  (fieldAt_head _ _).trans (byte_toNat k.kind.code_lt)

theorem Key.fieldAt_bytes : fieldAt k.record 1 10 = k.bytes.toNat :=
  fieldAt_all k.bytes.isLt

theorem bucketOf_eq :
    bucketOf k
      = (k.bytes.toNat / 65536 ^ 4 % 65536 ^^^ k.bytes.toNat / 65536 ^ 3 % 65536
          ^^^ k.bytes.toNat / 65536 ^ 2 % 65536 ^^^ k.bytes.toNat / 65536 ^ 1 % 65536
          ^^^ k.bytes.toNat / 65536 ^ 0 % 65536 ^^^ k.kind.code) % 4096 := by
  have word (i : Nat) : ((k.bytes >>> (16 * i)).setWidth 16 : Word16).toNat = k.bytes.toNat / 65536 ^ i % 65536 := by
    simp [Nat.shiftRight_eq_div_pow, pow_mul]
  have code : (BitVec.ofNat 16 k.kind.code : Word16).toNat = k.kind.code := by
    have small := k.kind.code_lt
    simp only [BitVec.toNat_ofNat]
    omega
  simp only [bucketOf, BitVec.toNat_xor, word, code]
  ac_rfl

end

/-! ## The CRC-16 -/

theorem crcFrom_append (crc : Word16) (front behind : List Byte) :
    crcFrom crc (front ++ behind) = crcFrom (crcFrom crc front) behind := by
  induction front generalizing crc with
  | nil => rfl
  | cons b front ih => exact ih _

theorem crc16_append_one (bytes : List Byte) (b : Byte) : crc16 (bytes ++ [b]) = crcByte (crc16 bytes) b :=
  crcFrom_append _ _ _

/-! ## Journal records -/

section
variable (r : JournalRecord)

theorem JournalRecord.flagsByte_toNat :
    r.flagsByte.toNat
      = r.revoked.toNat + 2 * r.double.toNat + 4 * r.verified.toNat + 8 * r.offlineAdmit.toNat := by
  have flags : ∀ a b c d : Bool,
      (byte ((if a then 1 else 0) + (if b then 2 else 0) + (if c then 4 else 0) + (if d then 8 else 0))).toNat
        = a.toNat + 2 * b.toNat + 4 * c.toNat + 8 * d.toNat := by decide
  exact flags ..

theorem JournalRecord.record_eq :
    r.record
      = beBytes 4 r.sequence ++ (beBytes 4 r.time ++ (byte r.lane.val :: byte r.purpose.code
          :: (r.key.record ++ [byte r.cls.val, r.flagsByte, 0]))) := by
  simp [JournalRecord.record]

theorem JournalRecord.record_length : r.record.length = 24 := by
  simp [JournalRecord.record_eq, beBytes_length, Key.record_length]

theorem JournalRecord.record_key : (r.record.drop 10).take 11 = r.key.record := by
  have key : r.record.drop 10 = r.key.record ++ [byte r.cls.val, r.flagsByte, 0] := by
    simp [JournalRecord.record_eq, List.drop_append, beBytes_length, List.drop_of_length_le]
  rw [key, List.take_left' r.key.record_length]

theorem JournalRecord.record_fields (hs : r.sequence < 4294967296) (ht : r.time < 4294967296) :
    fieldAt r.record 0 4 = r.sequence ∧ fieldAt r.record 4 4 = r.time ∧ fieldAt r.record 8 1 = r.lane.val
      ∧ fieldAt r.record 9 1 = r.purpose.code ∧ fieldAt r.record 21 1 = r.cls.val
      ∧ fieldAt r.record 22 1 = r.flagsByte.toNat ∧ fieldAt r.record 23 1 = 0 := by
  have lane : r.lane.val < 256 := by omega
  have cls : r.cls.val < 256 := by omega
  simp [JournalRecord.record_eq, fieldAt_past_beBytes, fieldAt_past_key, fieldAt_beBytes, fieldAt_cons, fieldAt_head,
    byte_toNat, hs, ht, lane, cls, r.purpose.code_lt]

end

/-! ## Report records -/

section
variable (r : Report)

theorem ReportKey.record_length (key : ReportKey) : key.record.length = 11 := by
  cases key with
  | none => exact beBytes_length 11 0
  | credential k => exact k.record_length
  | sequence n => simp [ReportKey.record, beBytes_length]

theorem Report.record_eq :
    r.record
      = byte r.kind.code :: byte (r.lane.elim 0xFF (·.val)) :: (beBytes 4 (r.time.getD 4294967295)
          ++ (byte r.reason :: (beBytes 2 r.count ++ r.key.record))) := by
  simp [Report.record, optional32]

theorem Report.record_length : r.record.length = 20 := by
  simp [Report.record_eq, beBytes_length, ReportKey.record_length]

theorem Report.record_key : r.record.drop 9 = r.key.record := by
  simp [Report.record_eq, List.drop_append, beBytes_length, List.drop_of_length_le]

theorem Report.record_fields (ht : ∀ t ∈ r.time, t < 4294967296) (hr : r.reason < 256) (hc : r.count < 65536) :
    fieldAt r.record 0 1 = r.kind.code ∧ fieldAt r.record 1 1 = r.lane.elim 0xFF (·.val)
      ∧ fieldAt r.record 2 4 = r.time.getD 4294967295 ∧ fieldAt r.record 6 1 = r.reason
      ∧ fieldAt r.record 7 2 = r.count := by
  have lane : r.lane.elim 0xFF (·.val) < 256 := by
    cases r.lane with
    | none => decide
    | some l => exact l.isLt.trans (by decide)
  have time : r.time.getD 4294967295 < 4294967296 := by
    cases h : r.time with
    | none => decide
    | some t => exact ht t h
  simp [Report.record_eq, fieldAt_past_beBytes, fieldAt_beBytes, fieldAt_cons, fieldAt_head, byte_toNat, time, lane,
    hr, hc, r.kind.code_lt]

theorem Report.fieldAt_key (off size : Nat) : fieldAt r.record (9 + off) size = fieldAt r.key.record off size := by
  rw [← fieldAt_drop, r.record_key]

theorem Report.record_of_no_key (h : r.key = .none) : fieldAt r.record 9 1 = 0 ∧ fieldAt r.record 10 10 = 0 := by
  rw [r.fieldAt_key 0, r.fieldAt_key 1, h]
  decide

theorem Report.record_of_sequence {n : Nat} (h : r.key = .sequence n) (hn : n < 4294967296) :
    fieldAt r.record 9 1 = 0 ∧ fieldAt r.record 10 4 = n ∧ fieldAt r.record 14 6 = 0 := by
  rw [r.fieldAt_key 0, r.fieldAt_key 1, r.fieldAt_key 5, h]
  simp [ReportKey.record, fieldAt_past_beBytes, fieldAt_beBytes, fieldAt_all, fieldAt_cons, fieldAt_head, hn]

end

/-! ## VERIFY messages -/

section
variable (m : VerifyMessage)

theorem VerifyMessage.record_eq :
    m.record = byte m.tag :: byte m.lane.val :: byte m.purpose.code :: (m.key.record ++ [byte m.cause.code]) := by
  simp [VerifyMessage.record]

theorem VerifyMessage.record_length : m.record.length = 15 := by
  simp [VerifyMessage.record_eq, Key.record_length]

theorem VerifyMessage.record_key : (m.record.drop 3).take 11 = m.key.record := by
  rw [m.record_eq]
  exact List.take_left' m.key.record_length

theorem VerifyMessage.record_fields (h : m.tag < 160) :
    fieldAt m.record 0 1 = m.tag ∧ fieldAt m.record 1 1 = m.lane.val ∧ fieldAt m.record 2 1 = m.purpose.code
      ∧ fieldAt m.record 14 1 = m.cause.code := by
  have tag : m.tag < 256 := by omega
  have lane : m.lane.val < 256 := by omega
  simp [VerifyMessage.record_eq, fieldAt_past_key, fieldAt_cons, fieldAt_head, byte_toNat, tag, lane,
    m.purpose.code_lt, m.cause.code_lt]

end

/-- Settles O54. -/
theorem recordsAreLaidOut : Obligations.RecordsAreLaidOut := by
  refine ⟨fun r hs ht => ?_, fun r ht hr hc => ?_, fun m hm => ?_, fun k => ?_, ?_, fun es => rfl, rfl, rfl, rfl,
    fun c n back => rfl, rfl, rfl, rfl, rfl, rfl, rfl⟩
  · obtain ⟨sequence, time, lane, purpose, cls, flags, fill⟩ := r.record_fields hs ht
    exact ⟨r.record_length, sequence, time, lane, purpose, r.record_key, cls, flags.trans r.flagsByte_toNat, fill⟩
  · obtain ⟨kind, lane, time, reason, count⟩ := r.record_fields ht hr hc
    refine ⟨r.record_length, kind, lane.trans ?_, time, reason, count, r.record_key, r.record_of_no_key,
      fun k hk => ?_, fun n => r.record_of_sequence⟩
    · cases r.lane <;> rfl
    · rw [r.record_key, hk]
      rfl
  · obtain ⟨tag, lane, purpose, cause⟩ := m.record_fields hm
    exact ⟨m.record_length, tag, lane, purpose, m.record_key, cause⟩
  · exact ⟨k.fieldAt_kind, k.fieldAt_bytes, bucketOf_eq k⟩
  · exact ⟨rfl, crc16_append_one, by decide +kernel⟩

end Sys2Proof.Machine
end

