-- ==== Sys2Proof/Proofs/BarcodeLines.lean ====
section
/-! Barcode lines: their characters, and the carriage return that classifies them (R103-R107). -/

namespace Sys2Proof.Machine

theorem decimalFrom_eq_foldl (acc : Nat) (digits : List Byte) :
    decimalFrom acc digits = digits.foldl (fun n d => 10 * n + (d.toNat - 48)) acc := by
  induction digits generalizing acc with
  | nil => rfl
  | cons c rest ih => exact ih _

theorem barcodePresentation_eq (line : List Byte) :
    barcodePresentation line
      = { key :=
            { kind := .barcode
              bytes := (BitVec.ofNat 64 (line.dropLast.foldl (fun n d => 10 * n + (d.toNat - 48)) 0)).setWidth 80 }
          source :=
            .barcode ((line.drop (line.length - 1)).foldl (fun n d => 10 * n + (d.toNat - 48)) 0) } := by
  simp only [barcodePresentation, barcodeKey, decimalFrom_eq_foldl]

/-! ## One character -/

section
variable {b : Port} {c : Byte}

theorem Port.take_of_full (hc : c ≠ 10) (h : 24 ≤ b.counted) (framingError : Bool) :
    b.take c framingError = { b with lineBad := true } :=
  (if_neg hc).trans (if_neg (Nat.not_lt.mpr h))

theorem Port.take_of_framingError (hc : c ≠ 10) (h : b.counted < 24) :
    b.take c true = { b with counted := b.counted + 1, lineBad := true } :=
  (if_neg hc).trans ((if_pos h).trans (if_pos rfl))

theorem Port.take_of_room (hc : c ≠ 10) (h : b.counted < 24) :
    b.take c false
      = { b with buffer := b.buffer ++ [c], counted := b.counted + 1, lineBad := b.lineBad || !isDigit c } :=
  (if_neg hc).trans ((if_pos h).trans (if_neg Bool.false_ne_true))

theorem isDigit_iff : isDigit c = true ↔ 48 ≤ c.toNat ∧ c.toNat ≤ 57 := by
  simp [isDigit, inRange]

theorem Port.take_of_digit (hc : c ≠ 10) (h : b.counted < 24) (hd : 48 ≤ c.toNat ∧ c.toNat ≤ 57) :
    b.take c false = { b with buffer := b.buffer ++ [c], counted := b.counted + 1 } := by
  rw [Port.take_of_room hc h, isDigit_iff.mpr hd, Bool.not_true, Bool.or_false]

theorem Port.take_of_other (hc : c ≠ 10) (h : b.counted < 24) (hd : c.toNat < 48 ∨ 57 < c.toNat) :
    b.take c false = { b with buffer := b.buffer ++ [c], counted := b.counted + 1, lineBad := true } := by
  have other : isDigit c = false := by
    rw [← Bool.not_eq_true, isDigit_iff]
    omega
  rw [Port.take_of_room hc h, other, Bool.not_false, Bool.or_true]

theorem Port.lineGood_iff :
    b.lineGood = true ↔ b.lineBad = false ∧ 8 ≤ b.buffer.length ∧ b.buffer.length ≤ 19 := by
  simp [Port.lineGood, inRange]

end

/-! ## A line classified -/

/-- R107: a lane after a bad line. -/
def Lane.afterBadLine (x : Lane) : Lane :=
  { x with
    port :=
      { x.port with
        badCount := addOne16 x.port.badCount
        fault := if addOne16 x.port.badCount = 10 then true else x.port.fault }
    signals :=
      if x.state.isOpen = true then { x.signals with tone := toneAfter x.signals.tone .error } else x.signals }

section
variable {p : Wb610} {l : LaneNo} {x : Lane}

theorem Lane.requestTone_of_open (h : x.state.isOpen = true) (t : Tone) :
    x.requestTone t = { x with signals := { x.signals with tone := toneAfter x.signals.tone t } } := by
  refine Lane.requestTone_of_not_free t ?_
  cases hs : x.state <;> simp [hs, LaneState.isOpen, LaneState.isFree] at h ⊢

/-- R107: the bad line counted and heard, the port not yet in FAULT. -/
def Lane.countBadLine (x : Lane) : Lane :=
  { x with
    port := { x.port with badCount := addOne16 x.port.badCount }
    signals :=
      if x.state.isOpen = true then { x.signals with tone := toneAfter x.signals.tone .error } else x.signals }

theorem Lane.countBadLine_eq :
    (if x.state.isOpen then
        ({ x with port := { x.port with badCount := addOne16 x.port.badCount } } : Lane).requestTone .error
      else { x with port := { x.port with badCount := addOne16 x.port.badCount } })
      = x.countBadLine := by
  cases ho : x.state.isOpen with
  | true =>
    rw [if_pos rfl, Lane.requestTone_of_open (by exact ho)]
    simp only [Lane.countBadLine, ho, if_true]
  | false => simp [Lane.countBadLine, ho]

theorem Lane.follows_countBadLine (h : x.OutputsFollow) : x.countBadLine.OutputsFollow := by
  unfold Lane.countBadLine
  cases x.state.isOpen <;> exact h

/-- R107: counted, with ERROR at an open lane; FAULT and its report at the tenth. -/
theorem Wb610.badLine_setLane (h : x.OutputsFollow) :
    (p.setLane l x).badLine l
      = if addOne16 x.port.badCount = 10 ∧ x.port.fault = false then
          (p.setLane l x.afterBadLine).report .barcodeFault (some l) 0 10 .none
        else p.setLane l x.afterBadLine := by
  have counted : ((p.setLane l x).modLane l fun y =>
      if y.state.isOpen then
        ({ y with port := { y.port with badCount := addOne16 x.port.badCount } } : Lane).requestTone .error
      else { y with port := { y.port with badCount := addOne16 x.port.badCount } })
        = p.setLane l x.countBadLine := by
    rw [p.modLane_setLane_of_follows l h, Lane.countBadLine_eq]
  simp only [Wb610.badLine, p.lane_setLane_of_follows l h, counted,
    p.modLane_setLane_of_follows l (Lane.follows_countBadLine h)]
  by_cases ten : addOne16 x.port.badCount = 10
  · cases fault : x.port.fault <;> simp [ten, fault, Lane.afterBadLine, Lane.countBadLine]
  · simp [ten, Lane.afterBadLine, Lane.countBadLine]

/-- R106: a good line: the presentation handed to the lane, the port sound again. -/
theorem Wb610.goodLine_eq (line : List Byte) (lost : Bool) :
    p.goodLine l line lost
      = (if (p.lane l).port.fault then
          (p.arrive l (barcodePresentation line) lost).1.report .barcodeOk (some l) 0 (p.lane l).port.badCount .none
        else (p.arrive l (barcodePresentation line) lost).1).setLane l
          { (p.arrive l (barcodePresentation line) lost).1.lane l with
            port := { (p.lane l).port with fault := false, badCount := 0 } } := by
  have same : ((p.arrive l (barcodePresentation line) lost).1.lane l).port = (p.lane l).port :=
    ((p.inCycle_arrive l lost _).lanes l).port
  simp only [Wb610.goodLine, same]
  split <;> simp only [Wb610.modLane, Wb610.lane_report, same]

end

/-- Settles O42: the characters by R103, the carriage return by R104 to R107. -/
theorem barcodeLinesAreClassified : Obligations.BarcodeLinesAreClassified := by
  intro s l c framingError lost p x b follows
  constructor
  · intro goes taken
    have step : p.barcodeCharacter l c framingError lost = p.setLane l { x with port := b.take c framingError } := by
      refine if_neg fun ends => ?_
      obtain ⟨cr, clean⟩ := ends
      exact goes.elim (fun h => h cr) (fun h => by simp [clean] at h)
    have takes {b' : Port} (h : b.take c framingError = b') : taken b' :=
      State.next_congr (step.trans (congrArg (fun a => p.setLane l { x with port := a }) h))
    refine ⟨fun feed => ?_, fun hc full => takes (Port.take_of_full hc full _), fun hc room err => ?_,
      fun hc room clean lo hi => ?_, fun hc room clean other => ?_⟩
    · have kept : b.take c framingError = b := if_pos feed
      refine State.next_congr (step.trans ?_)
      rw [kept]
      exact p.setLane_self l follows
    · subst err
      exact takes (Port.take_of_framingError hc room)
    · subst clean
      exact takes (Port.take_of_digit hc room ⟨lo, hi⟩)
    · subst clean
      exact takes (Port.take_of_other hc room other)
  · intro cr clean ended cleared good
    have step : p.barcodeCharacter l c framingError lost = p.endLine l lost := if_pos ⟨cr, clean⟩
    refine ⟨fun off => ?_, fun on line => ?_, fun on bad => ?_⟩
    · exact State.next_congr (step.trans (if_neg fun on => Bool.false_ne_true (off.symm.trans on)))
    · have handed : p.endLine l lost = cleared.goodLine l b.buffer lost :=
        (if_pos on).trans (if_pos (Port.lineGood_iff.mpr line))
      have port : (cleared.lane l).port = ended := congrArg Lane.port (p.lane_setLane_of_follows (y := { x with port := ended }) l follows)
      have sounds := cleared.goodLine_eq (l := l) b.buffer lost
      rw [port, barcodePresentation_eq] at sounds
      exact State.next_congr (step.trans (handed.trans sounds))
    · intro count heard
      have heardLine : p.endLine l lost = cleared.badLine l :=
        (if_pos on).trans (if_neg fun h => bad (Port.lineGood_iff.mp h))
      have follows' : ({ x with port := ended } : Lane).OutputsFollow := follows
      refine State.next_congr (step.trans (heardLine.trans ((Wb610.badLine_setLane follows').trans ?_)))
      rfl

end Sys2Proof.Machine
end

