-- ==== Sys2Proof/Proofs/RequestRows.lean ====
section
/-! Which frames the request rows take, and how each answers a payload of a wrong length (R183, R184; log 2, log 3). -/

namespace Sys2Proof.Machine

/-! ## What a request row is -/

/-- R183: at this state the row of the command is a request step for frames of one TYPE. -/
def ServesType (c : Instr) (ty : Byte) (s : State) : Prop :=
  ∃ serves body, exec c s = .next { s with part := s.part.serve serves body } ∧ ∀ f, serves f = true → f.type = ty

/-- R184: the same, and every frame of the TYPE whose payload has not the length given is answered BAD_REQUEST. -/
def ServesLength (c : Instr) (ty : Byte) (n : Nat) (s : State) : Prop :=
  ∃ serves body, exec c s = .next { s with part := s.part.serve serves body }
    ∧ (∀ f, serves f = true → f.type = ty)
    ∧ ∀ (q : Wb610) f, f.type = ty → f.payload.length ≠ n → serves f = true ∧ body q f = q.respond f .badRequest []

/-- The option a frame names at an offset, as the rows that share a TYPE tell theirs (log 3). -/
def servesOption (ty : Byte) (n off most option : Nat) (f : Frame) : Bool :=
  decide (f.type = ty) &&
    (!decide (f.payload.length = n) || decide (byteAt f.payload off = option) || !inRange 1 most (byteAt f.payload off))

section
variable {c : Instr} {ty : Byte} {n : Nat} {s : State} {body : Wb610 → Frame → Wb610}

theorem ServesLength.servesType (h : ServesLength c ty n s) : ServesType c ty s := by
  obtain ⟨serves, body, step, own, _⟩ := h
  exact ⟨serves, body, step, own⟩

theorem servesLength_fixed (step : exec c s = .next { s with part := s.part.serveFixed ty n body }) :
    ServesLength c ty n s :=
  ⟨_, _, step, fun _ => of_decide_eq_true, fun _ _ ht hn => ⟨decide_eq_true ht, if_neg hn⟩⟩

theorem servesType_type (step : exec c s = .next { s with part := s.part.serve (fun f => decide (f.type = ty)) body }) :
    ServesType c ty s :=
  ⟨_, _, step, fun _ => of_decide_eq_true⟩

/-- R183: a row that names an option, and tests the length before all else. -/
theorem servesLength_option {off most option : Nat}
    (step : exec c s = .next { s with
      part := s.part.serve (servesOption ty n off most option) fun q f =>
        if f.payload.length ≠ n then q.respond f .badRequest [] else body q f }) :
    ServesLength c ty n s := by
  refine ⟨_, _, step, fun f h => ?_, fun q f ht hn => ⟨?_, if_pos hn⟩⟩
  · exact of_decide_eq_true (Bool.and_eq_true_iff.mp h).1
  · simp [servesOption, ht, hn]

/-- R183: the handler cannot take a frame. -/
theorem Wb610.serve_of_stopped {p : Wb610} {serves : Frame → Bool}
    (h : p.rxBuffer = [] ∨ p.request.isSome ∨ 4 ≤ p.responses.length ∨ p.handler ≠ .ready) :
    p.serve serves body = p := by
  rcases p.serve_cases serves body with same | ⟨g, gs, buffered, idle, room, ready, -, -⟩
  · exact same
  · simp [buffered, idle, ready] at h
    omega

/-- R190: STATUS READ is a row of its TYPE but while it is in progress (log 6). -/
theorem Wb610.statusRead_of_not_reading {p : Wb610} (blocks : List StatusBlock)
    (h : ∀ tag read, p.request ≠ some (.status tag read)) :
    p.statusRead blocks
      = p.serveFixed 0x02#8 0 fun q f =>
          q.continueStatus f.tag (q.readBlocks blocks (statusParts.map fun _ => none)) := by
  cases hr : p.request with
  | none => simp only [Wb610.statusRead, hr]
  | some r =>
    rw [Wb610.serveFixed, Wb610.serve_of_stopped (.inr (.inl (by rw [hr]; rfl)))]
    cases r with
    | status tag read => exact absurd hr (h tag read)
    | _ => simp only [Wb610.statusRead, hr]

theorem servesLength_statusRead (blocks : List StatusBlock)
    (h : ∀ tag read, s.part.request ≠ some (.status tag read)) : ServesLength (.statusRead blocks) 0x02#8 0 s :=
  servesLength_fixed (State.next_congr (Wb610.statusRead_of_not_reading blocks h))

end

/-! ## When no row acts -/

section
variable {c : Instr} {ty : Byte} {s : State} {f : Frame} {rest : List Frame} {serves : Frame → Bool}
  {body : Wb610 → Frame → Wb610}

theorem State.Takes.not_reading (taken : s.Takes f rest) (tag : Byte) (read : List (Option (List Byte))) :
    s.part.request ≠ some (.status tag read) := by
  obtain ⟨-, idle, -⟩ := taken
  simp [idle]

theorem State.Takes.serve_of_not (taken : s.Takes f rest) (h : serves f = false) : s.part.serve serves body = s.part :=
  s.part.serve_of_not serves body fun g hg => by
    obtain ⟨buffered, -⟩ := taken
    rw [buffered] at hg
    rwa [← Option.some.inj hg]

theorem ServesType.of_stopped (h : ServesType c ty s)
    (stopped : s.part.rxBuffer = [] ∨ s.part.request.isSome ∨ 4 ≤ s.part.responses.length ∨ s.part.handler ≠ .ready) :
    exec c s = .next s := by
  obtain ⟨serves, body, step, -⟩ := h
  rw [step, Wb610.serve_of_stopped stopped]

theorem ServesType.of_other (h : ServesType c ty s) (taken : s.Takes f rest) (other : f.type ≠ ty) :
    exec c s = .next s := by
  obtain ⟨serves, body, step, own⟩ := h
  rw [step, taken.serve_of_not (Bool.eq_false_iff.mpr fun h => other (own f h))]

theorem ServesLength.of_wrong {n : Nat} (h : ServesLength c ty n s) (taken : s.Takes f rest) (ht : f.type = ty)
    (hn : f.payload.length ≠ n) : exec c s = .next (s.answered rest s.part (f.reply 1 [])) := by
  obtain ⟨serves, body, step, -, wrong⟩ := h
  obtain ⟨own, refused⟩ := wrong { s.part with rxBuffer := rest } f ht hn
  rw [step, taken.serve body own, refused]
  exact congrArg _ (s.respond_eq_answered f rest { s.part with rxBuffer := rest } rfl rfl .badRequest [])

theorem byteAt_of_getElem? {bytes : List Byte} {off : Nat} {b : Byte} (h : bytes[off]? = some b) :
    byteAt bytes off = b.toNat := by
  induction bytes generalizing off with
  | nil => simp at h
  | cons a bytes ih =>
    cases off with
    | zero => rw [byteAt_head, Option.some.inj h]
    | succ off => rw [byteAt_cons, ih h]

/-- Log 3: a frame that names another row of its TYPE. -/
theorem exec_of_other_option {n off most option : Nat}
    (step : exec c s = .next { s with part := s.part.serve (servesOption ty n off most option) body })
    (taken : s.Takes f rest) (_ : f.type = ty) (hn : f.payload.length = n) (b : Byte) (hb : b ∈ f.payload[off]?)
    (h1 : 1 ≤ b.toNat) (hm : b.toNat ≤ most) (other : b.toNat ≠ option) : exec c s = .next s := by
  have named : servesOption ty n off most option f = false := by
    simp [servesOption, hn, byteAt_of_getElem? hb, inRange, h1, hm, other]
  rw [step, taken.serve_of_not named]

end

/-- Settles O9. -/
theorem requestsAreTakenAndChecked : Obligations.RequestsAreTakenAndChecked := by
  intro blocks lost types fixed rows shared
  have lengths : ∀ r ∈ fixed, ∀ s : State,
      (r.1 = .statusRead blocks → ∀ tag read, s.part.request ≠ some (.status tag read)) →
        ServesLength r.1 r.2.1 r.2.2 s := by
    simp only [fixed, List.forall_mem_cons, List.not_mem_nil, false_implies, implies_true, and_true]
    exact ⟨fun _ _ => servesLength_fixed rfl, fun _ h => servesLength_statusRead blocks (h trivial),
      fun _ _ => servesLength_fixed rfl, fun _ _ => servesLength_fixed rfl, fun _ _ => servesLength_fixed rfl,
      fun _ _ => servesLength_fixed rfl, fun _ _ => servesLength_fixed rfl, fun _ _ => servesLength_option rfl,
      fun _ _ => servesLength_option rfl, fun _ _ => servesLength_option rfl, fun _ _ => servesLength_option rfl,
      fun _ _ => servesLength_option rfl, fun _ _ => servesLength_option rfl, fun _ _ => servesLength_fixed rfl,
      fun _ _ => servesLength_fixed rfl, fun _ _ => servesLength_fixed rfl, fun _ _ => servesLength_fixed rfl,
      fun _ _ => servesLength_fixed rfl, fun _ _ => servesLength_fixed rfl, fun _ _ => servesLength_option rfl,
      fun _ _ => servesLength_option rfl, fun _ _ => servesLength_fixed rfl, fun _ _ => servesLength_fixed rfl⟩
  have types_of : ∀ r ∈ rows, ∀ s : State,
      (r.1 = .statusRead blocks → ∀ tag read, s.part.request ≠ some (.status tag read)) → ServesType r.1 r.2 s := by
    simp only [rows, List.forall_mem_append, List.forall_mem_map, List.forall_mem_cons, List.not_mem_nil,
      false_implies, implies_true, and_true]
    exact ⟨fun r hr s h => (lengths r hr s h).servesType, fun _ _ => servesType_type rfl,
      fun _ _ => servesType_type rfl, fun _ _ => servesType_type rfl, fun _ _ => servesType_type rfl⟩
  have unknown (s : State) : exec .unknownType s
      = .next { s with part := s.part.serve (fun f => !requestTypes.contains f.type) fun q f =>
          { q with responses := q.responses
              ++ [{ type := 0xFF#8, tag := f.tag, payload := [ResultCode.badRequest.code, f.type] }] } } := rfl
  refine ⟨fun s stopped idle => ⟨?_, fun r hr => ?_⟩, fun s tag read reading => ⟨?_, fun r hr other => ?_⟩,
    fun s f rest taken => ⟨fun listed => ?_, fun r hr other => ?_, ?_, fun unlisted => ?_, fun r hr ht hn => ?_⟩⟩
  · rw [unknown, Wb610.serve_of_stopped stopped]
  · exact (types_of r hr s fun _ => idle).of_stopped stopped
  · rw [unknown, Wb610.serve_of_stopped (.inr (.inl (by rw [reading]; rfl)))]
  · exact (types_of r hr s fun h => absurd h other).of_stopped (.inr (.inl (by rw [reading]; rfl)))
  · have known : (!requestTypes.contains f.type) = false := by
      rw [Bool.not_eq_false', List.contains_iff_mem]
      exact listed
    rw [unknown, taken.serve_of_not known]
  · exact (types_of r hr s fun _ => taken.not_reading).of_other taken other
  · simp only [shared, List.forall_mem_cons, List.not_mem_nil, false_implies, implies_true, and_true]
    exact ⟨exec_of_other_option rfl taken, exec_of_other_option rfl taken, exec_of_other_option rfl taken,
      exec_of_other_option rfl taken, exec_of_other_option rfl taken, exec_of_other_option rfl taken,
      exec_of_other_option rfl taken, exec_of_other_option rfl taken⟩
  · have new : (!requestTypes.contains f.type) = true := by
      rw [Bool.not_eq_true', ← Bool.not_eq_true, List.contains_iff_mem]
      exact unlisted
    rw [unknown, taken.serve _ new]
    rfl
  · exact (lengths r hr s fun _ => taken.not_reading).of_wrong taken ht hn

end Sys2Proof.Machine
end

