-- ==== Sys2Proof/Proofs/EachLane.lean ====
section
/-! SUPPORT. What an act taken at every lane leaves, when at each lane it reads and writes that lane alone (R81, R168, R171). -/

namespace Sys2Proof.Machine

theorem laneNos_nodup : laneNos.Nodup := by decide

section
variable {act : Wb610 → LaneNo → Wb610}
  (others : ∀ (q : Wb610) l m, m ≠ l → (act q l).lane m = q.lane m)
include others

/-- Every lane becomes what the act makes of it. -/
theorem Wb610.lane_eachLane_eq {g : Lane → Lane} (own : ∀ q l, (act q l).lane l = g (q.lane l)) (p : Wb610)
    (m : LaneNo) : (p.eachLane act).lane m = g (p.lane m) := by
  have folds (ls : List LaneNo) (distinct : ls.Nodup) :
      ∀ q : Wb610, (ls.foldl act q).lane m = if m ∈ ls then g (q.lane m) else q.lane m := by
    induction ls with
    | nil => exact fun q => rfl
    | cons l ls ih =>
      intro q
      obtain ⟨apart, distinct⟩ := List.nodup_cons.mp distinct
      rw [List.foldl_cons, ih distinct]
      by_cases at_l : m = l
      · subst at_l
        rw [if_neg apart, if_pos (List.mem_cons_self ..), own]
      · rw [others q l m at_l]
        simp only [List.mem_cons, at_l, false_or]
  rw [Wb610.eachLane, folds laneNos laneNos_nodup p, if_pos (mem_laneNos m)]

/-- What the act writes outside the lanes is written lane by lane, from the lanes as they stood at first. -/
theorem Wb610.eachLane_field {α : Type} (field : Wb610 → α) {step : α → Lane → α} {I : Wb610 → Prop}
    (keeps : ∀ q l, I q → I (act q l)) (writes : ∀ q l, I q → field (act q l) = step (field q) (q.lane l)) {p : Wb610}
    (h : I p) : field (p.eachLane act) = laneNos.foldl (fun a l => step a (p.lane l)) (field p) := by
  have folds (ls : List LaneNo) (distinct : ls.Nodup) :
      ∀ q : Wb610, I q → field (ls.foldl act q) = ls.foldl (fun a l => step a (q.lane l)) (field q) := by
    induction ls with
    | nil => exact fun q _ => rfl
    | cons l ls ih =>
      intro q hq
      obtain ⟨apart, distinct⟩ := List.nodup_cons.mp distinct
      rw [List.foldl_cons, ih distinct _ (keeps q l hq), List.foldl_cons, writes q l hq]
      refine List.foldl_ext _ _ _ fun a m hm => ?_
      rw [others q l m fun e => apart (e ▸ hm)]
  exact folds laneNos laneNos_nodup p h

end

theorem List.foldl_filter {α β : Type} (keep : β → α → Bool) (bs : List β) (as : List α) :
    bs.foldl (fun as b => as.filter (keep b)) as = as.filter fun a => bs.all fun b => keep b a := by
  induction bs generalizing as with
  | nil => simp
  | cons b bs ih =>
    rw [List.foldl_cons, ih, List.filter_filter]
    refine congrArg (fun g => as.filter g) (funext fun a => ?_)
    rw [List.all_cons, Bool.and_comm]

/-! ## A lane's query cancelled and its hold released (R26, R134) -/

/-- R124, R134: a lane whose query, if it has one, is dropped. -/
def Lane.queryDropped (x : Lane) : Lane :=
  match x.slot with
  | none => x
  | some _ => ({ x with slot := none } : Lane).sync

/-- R26: a lane whose hold, if it has one, is released. -/
def Lane.holdReleased (x : Lane) : Lane :=
  match x.hold with
  | none => x
  | some _ => x.dropHold.sync

/-- A lane with its outputs left out. -/
def Lane.unlit (x : Lane) : Lane :=
  { x with lockOn := false, signals := { x.signals with shown := .stop, flash := none } }

/-- R26, R134: the table after the release of a lane's hold at a clock value. -/
def Table.releasedFor (now : Nat) (t : Table) (x : Lane) : Table :=
  match x.hold with
  | none => t
  | some k => t.modify k (Entry.release now)

section
variable (p : Wb610) (l : LaneNo) (x : Lane)

theorem Wb610.lane_dropQuery_same : (p.dropQuery l).lane l = (p.lane l).queryDropped := by
  unfold Wb610.dropQuery Lane.queryDropped
  cases (p.lane l).slot with
  | none => rfl
  | some q => exact Wb610.lane_modLane_same _ _ _

theorem Wb610.lane_releaseHold_same : (p.releaseHold l).lane l = (p.lane l).holdReleased := by
  unfold Wb610.releaseHold Lane.holdReleased
  cases (p.lane l).hold with
  | none => rfl
  | some k => exact Wb610.lane_modLane_same _ _ _

theorem Wb610.lane_cancel : ((p.dropQuery l).releaseHold l).lane l = (p.lane l).queryDropped.holdReleased := by
  rw [Wb610.lane_releaseHold_same, Wb610.lane_dropQuery_same]

theorem Wb610.table_cancel :
    ((p.dropQuery l).releaseHold l).table = p.table.releasedFor (p.clock.getD 0) (p.lane l) := by
  have held : ((p.dropQuery l).lane l).hold = (p.lane l).hold := p.dropQuery_hold l
  unfold Wb610.releaseHold Table.releasedFor
  rw [held]
  cases (p.lane l).hold with
  | none => exact p.dropQuery_table l
  | some k =>
    simp only [Wb610.modLane_table, Wb610.dropQuery_table, Wb610.now, Wb610.dropQuery_clock]

theorem Wb610.verifyQueue_cancel :
    ((p.dropQuery l).releaseHold l).verifyQueue
      = p.verifyQueue.filter fun m => (p.lane l).slot.all fun c => m.tag ≠ c.tag := by
  rw [Wb610.releaseHold_verifyQueue]
  unfold Wb610.dropQuery
  cases (p.lane l).slot with
  | none => simp
  | some q => simp

/-- Cancelling writes the lanes, the table and the waiting messages. -/
theorem Wb610.cancel_gate (lanes : Vector Lane 10) (t : Table) (v : List VerifyMessage) :
    { (p.dropQuery l).releaseHold l with lanes := lanes, table := t, verifyQueue := v }
      = { p with lanes := lanes, table := t, verifyQueue := v } := by
  unfold Wb610.releaseHold Wb610.dropQuery
  cases (p.lane l).slot <;> dsimp only <;> split <;> rfl

theorem Lane.sync_unlit : x.sync.unlit = x.unlit := by
  unfold Lane.sync Lane.unlit SignalUnit.display
  dsimp only
  split <;> rfl

theorem Lane.queryDropped_unlit : x.queryDropped.unlit = { x.unlit with slot := none } := by
  unfold Lane.queryDropped
  split
  · next empty => rw [Lane.unlit, ← empty]
  · exact Lane.sync_unlit _

theorem Lane.holdReleased_unlit :
    x.holdReleased.unlit
      = { x.unlit with
          hold := none, verified := x.holdReleased.verified, offlineAdmit := x.holdReleased.offlineAdmit } := by
  unfold Lane.holdReleased
  split
  · next unheld => rw [Lane.unlit, ← unheld]
  · rw [Lane.sync_unlit]
    rfl

/-- R26, R134: what cancelling does to a lane, but for the outputs and the admission flags. -/
theorem Lane.cancelled_unlit :
    x.queryDropped.holdReleased.unlit
      = { x.unlit with
          slot := none, hold := none, verified := x.queryDropped.holdReleased.verified
          offlineAdmit := x.queryDropped.holdReleased.offlineAdmit } := by
  rw [Lane.holdReleased_unlit, Lane.queryDropped_unlit]

theorem Lane.cancelled_of_follows (h : x.OutputsFollow) :
    x.queryDropped.holdReleased
      = { x with
          slot := none, hold := none, verified := x.queryDropped.holdReleased.verified
          offlineAdmit := x.queryDropped.holdReleased.offlineAdmit } := by
  have dropped : x.queryDropped = { x with slot := none } := by
    unfold Lane.queryDropped
    split
    · next empty => rw [← empty]
    · exact Lane.sync_of_follows _ h
  rw [dropped]
  unfold Lane.holdReleased
  split
  · next unheld => rw [← unheld]
  · next k held =>
    have follows : ({ x with slot := none } : Lane).dropHold.OutputsFollow := h
    rw [Lane.sync_of_follows _ follows]
    rfl

end

end Sys2Proof.Machine
end

