-- ==== Sys2Proof/Proofs/Emergency.lean ====
section
/-! The emergency asserted and deasserted at every lane (R167-R171). -/

namespace Sys2Proof.Machine

/-- What every act of a fold leaves outside the lanes, the table and the waiting messages, the fold leaves. -/
theorem Wb610.eachLane_gate {act : Wb610 → LaneNo → Wb610}
    (h : ∀ (q : Wb610) l lanes t v, { act q l with lanes := lanes, table := t, verifyQueue := v }
      = { q with lanes := lanes, table := t, verifyQueue := v })
    (p : Wb610) (lanes : Vector Lane 10) (t : Table) (v : List VerifyMessage) :
    { p.eachLane act with lanes := lanes, table := t, verifyQueue := v }
      = { p with lanes := lanes, table := t, verifyQueue := v } :=
  p.eachLane_same (fun q => { q with lanes := lanes, table := t, verifyQueue := v }) fun q l => h q l lanes t v

theorem Wb610.eq_of_gate {p q : Wb610}
    (h : ∀ lanes t v, { q with lanes := lanes, table := t, verifyQueue := v }
      = { p with lanes := lanes, table := t, verifyQueue := v }) :
    q = { p with lanes := q.lanes, table := q.table, verifyQueue := q.verifyQueue } :=
  h q.lanes q.table q.verifyQueue

/-! ## The assertion -/

section
variable (p : Wb610) (l : LaneNo)

theorem Wb610.lane_freeLane : (p.freeLane l).lane l = (p.lane l).queryDropped.holdReleased.enterFree.sync := by
  rw [Wb610.freeLane, Wb610.lane_modLane_same, Wb610.lane_cancel]

theorem Wb610.freeLane_gate (lanes : Vector Lane 10) (t : Table) (v : List VerifyMessage) :
    { p.freeLane l with lanes := lanes, table := t, verifyQueue := v }
      = { p with lanes := lanes, table := t, verifyQueue := v } :=
  p.cancel_gate l lanes t v

theorem Wb610.table_eachFreeLane :
    (p.eachLane Wb610.freeLane).table
      = laneNos.foldl (fun t l => t.releasedFor (p.clock.getD 0) (p.lane l)) p.table := by
  refine Wb610.eachLane_field Wb610.freeLane_lane_ne Wb610.table (I := fun q => q.clock = p.clock)
    (fun q l hq => (Wb610.inCycle_freeLane q l).clock.trans hq) (fun q l hq => ?_) rfl
  rw [Wb610.freeLane, Wb610.modLane_table, Wb610.table_cancel, hq]

theorem Wb610.verifyQueue_eachFreeLane :
    (p.eachLane Wb610.freeLane).verifyQueue
      = p.verifyQueue.filter fun m => laneNos.all fun l => (p.lane l).slot.all fun c => m.tag ≠ c.tag := by
  have writes := Wb610.eachLane_field Wb610.freeLane_lane_ne Wb610.verifyQueue (I := fun _ => True)
    (step := fun v x => v.filter fun m => x.slot.all fun c : Query => m.tag ≠ c.tag) (fun _ _ _ => trivial)
    (fun q l _ => q.verifyQueue_cancel l) (p := p) trivial
  rw [writes, List.foldl_filter]

/-- R168, R169: the assertion, but for the lanes, the table and the waiting messages. -/
theorem Wb610.assertEmergency_eq :
    p.assertEmergency
      = ({ p with
          lanes := (p.eachLane Wb610.freeLane).lanes, table := (p.eachLane Wb610.freeLane).table
          verifyQueue := (p.eachLane Wb610.freeLane).verifyQueue, tally := 0 } : Wb610).report .emergencyStart none 0
        (laneNos.countP fun l => (p.lane l).hold.isSome) .none := by
  have gate := Wb610.eq_of_gate (Wb610.eachLane_gate Wb610.freeLane_gate p)
  unfold Wb610.assertEmergency
  generalize p.eachLane Wb610.freeLane = q at gate ⊢
  exact congrArg (fun q => ({ q with tally := 0 } : Wb610).report .emergencyStart none 0 p.holdCount .none) gate

theorem Wb610.lane_assertEmergency : p.assertEmergency.lane l = (p.freeLane l).lane l := by
  rw [Wb610.assertEmergency, Wb610.lane_report, Wb610.lane_freeLane]
  have lanes := Wb610.lane_eachLane_eq (g := fun x => x.queryDropped.holdReleased.enterFree.sync)
    Wb610.freeLane_lane_ne (fun q l => q.lane_freeLane l) p l
  generalize p.eachLane Wb610.freeLane = q at lanes ⊢
  exact lanes

end

/-! ## The deassertion -/

section
variable (p : Wb610) (l : LaneNo)

/-- R171: one lane leaves FREE. -/
def Wb610.returnLane (p : Wb610) (l : LaneNo) : Wb610 := p.modLane l Lane.leaveFree

theorem Wb610.lane_deassertEmergency : p.deassertEmergency.lane l = (p.lane l).leaveFree.sync := by
  have lanes := Wb610.lane_eachLane_eq (act := Wb610.returnLane) (g := fun x => x.leaveFree.sync)
    (fun q l m h => q.lane_modLane_ne l m _ h) (fun q l => q.lane_modLane_same l _) p l
  rw [Wb610.deassertEmergency, Wb610.lane_report]
  exact lanes

theorem Wb610.eachLane_lanes {act : Wb610 → LaneNo → Wb610}
    (h : ∀ (q : Wb610) l lanes, { act q l with lanes := lanes } = { q with lanes := lanes }) (lanes : Vector Lane 10) :
    { p.eachLane act with lanes := lanes } = { p with lanes := lanes } :=
  p.eachLane_same (fun q => { q with lanes := lanes }) fun q l => h q l lanes

/-- R171: the deassertion, but for the lanes. -/
theorem Wb610.deassertEmergency_eq :
    p.deassertEmergency
      = ({ p with lanes := (p.eachLane Wb610.returnLane).lanes } : Wb610).report .emergencyEnd none 0 p.tally .none := by
  have act : (fun (q : Wb610) l => q.modLane l Lane.leaveFree) = Wb610.returnLane := rfl
  have gate := p.eachLane_lanes (act := Wb610.returnLane) fun _ _ _ => rfl
  rw [Wb610.deassertEmergency, act]
  generalize p.eachLane Wb610.returnLane = q at gate ⊢
  exact congrArg (fun q : Wb610 => q.report .emergencyEnd none 0 p.tally .none) (gate q.lanes)

end

/-- R171: a lane that leaves FREE, as the statements write it. -/
theorem Lane.leaveFree_eq {x y : Lane} (h : { x with rotor := x.rotor.rest } = y) :
    x.leaveFree
      = match x.state, x.closePending with
        | .free (.wasClosed c), _ => y.afterClosing c
        | .free .wasOpen, some c => y.afterClosing c
        | .free .wasOpen, none => y.backToIdle
        | _, _ => x := by
  cases hs : x.state with
  | free back =>
    cases back with
    | wasClosed c => exact (Lane.leaveFree_of_closed hs).trans (congrArg (Lane.close c) h)
    | wasOpen =>
      cases hc : x.closePending with
      | some c => exact (Lane.leaveFree_of_pending hs hc).trans (congrArg (Lane.close c) h)
      | none => exact (Lane.leaveFree_of_open hs hc).trans (congrArg Lane.enterIdle h)
  | _ => exact Lane.leaveFree_of_taken (by rw [hs]; rfl)

/-- R168: a lane that enters FREE, as the statements write it. -/
theorem Lane.enterFree_cancelled {x : Lane} {back : Remembered} (h : x.OutputsFollow) (hb : x.state.rememberedAs = back) :
    x.queryDropped.holdReleased.enterFree
      = { x with
          state := .free back, hold := none, verified := false, offlineAdmit := false, slot := none
          current := none, next := none, repeatMemory := none, testRelease := none
          rotor := { x.rotor with forced := false }
          signals := { x.signals with commanded := .stop, tone := none } } := by
  rw [← hb, Lane.cancelled_of_follows x h]
  rfl

/-! ## The debounce timer -/

section
variable {p : Wb610}

theorem Wb610.debounceExpiry_of_stopped (h : p.debounce = none) : p.debounceExpiry = p := by
  rw [Wb610.debounceExpiry, h]

theorem Wb610.debounceExpiry_of_running (h : p.debounce ≠ none) :
    p.debounceExpiry
      = if p.rawEmergency = p.emergency then { p with debounce := none, emergency := p.rawEmergency }
        else if p.rawEmergency then ({ p with debounce := none, emergency := p.rawEmergency } : Wb610).assertEmergency
        else ({ p with debounce := none, emergency := p.rawEmergency } : Wb610).deassertEmergency := by
  obtain ⟨t, ht⟩ := Option.ne_none_iff_exists'.mp h
  simp only [Wb610.debounceExpiry, ht]

end

/-- R167, R168: the debounced state becomes open. -/
theorem Wb610.debounceExpiry_of_raised {p : Wb610} (running : p.debounce ≠ none) (raw : p.rawEmergency = true)
    (emergency : p.emergency = false) :
    p.debounceExpiry = ({ p with debounce := none, emergency := true } : Wb610).assertEmergency :=
  (Wb610.debounceExpiry_of_running running).trans <|
    (if_neg (by simp [raw, emergency])).trans <| (if_pos raw).trans <|
      congrArg (fun b => ({ p with debounce := none, emergency := b } : Wb610).assertEmergency) raw

/-- R167, R171: the debounced state becomes closed. -/
theorem Wb610.debounceExpiry_of_lowered {p : Wb610} (running : p.debounce ≠ none) (raw : p.rawEmergency = false)
    (emergency : p.emergency = true) :
    p.debounceExpiry = ({ p with debounce := none, emergency := false } : Wb610).deassertEmergency :=
  (Wb610.debounceExpiry_of_running running).trans <|
    (if_neg (by simp [raw, emergency])).trans <| (if_neg (by simp [raw])).trans <|
      congrArg (fun b => ({ p with debounce := none, emergency := b } : Wb610).deassertEmergency) raw

/-! ## What the gate is told -/

section
variable (p : Wb610)

theorem Wb610.assertEmergency_emergency : p.assertEmergency.emergency = p.emergency := by
  rw [Wb610.assertEmergency_eq, Wb610.report_emergency]

theorem Wb610.assertEmergency_debounce : p.assertEmergency.debounce = p.debounce := by
  rw [Wb610.assertEmergency_eq, Wb610.report_debounce]

theorem Wb610.assertEmergency_table :
    p.assertEmergency.table = laneNos.foldl (fun t l => t.releasedFor (p.clock.getD 0) (p.lane l)) p.table := by
  rw [← Wb610.table_eachFreeLane, Wb610.assertEmergency, Wb610.report_table]

theorem Wb610.assertEmergency_verifyQueue :
    p.assertEmergency.verifyQueue
      = p.verifyQueue.filter fun m => laneNos.all fun l => (p.lane l).slot.all fun c => m.tag ≠ c.tag := by
  rw [← Wb610.verifyQueue_eachFreeLane, Wb610.assertEmergency, Wb610.report_verifyQueue]

theorem Wb610.deassertEmergency_emergency : p.deassertEmergency.emergency = p.emergency := by
  rw [Wb610.deassertEmergency_eq, Wb610.report_emergency]

theorem Wb610.deassertEmergency_debounce : p.deassertEmergency.debounce = p.debounce := by
  rw [Wb610.deassertEmergency_eq, Wb610.report_debounce]

/-- A report reads neither the lanes, the table, the waiting messages, the emergency nor its debounce timer. -/
theorem Wb610.report_of_emergency (lanes : Vector Lane 10) (t : Table) (v : List VerifyMessage) (b : Bool)
    (d : Option Ticks) (kind : ReportKind) (count : Nat) :
    let told := p.report kind none 0 count .none
    { ({ p with debounce := d, emergency := b, lanes := lanes, table := t, verifyQueue := v } : Wb610).report kind none 0
        count .none with
        lanes := told.lanes, table := told.table, verifyQueue := told.verifyQueue, emergency := p.emergency
        debounce := told.debounce }
      = told := by
  simp only [Wb610.report_eq]

/-- R169: the assertion, told by its report. -/
theorem Wb610.assertEmergency_told {b : Bool} (h : p.emergency = b) :
    let told := ({ p with tally := 0 } : Wb610).report .emergencyStart none 0
      (laneNos.countP fun l => (p.lane l).hold.isSome) .none
    { ({ p with debounce := none, emergency := true } : Wb610).assertEmergency with
        lanes := told.lanes, table := told.table, verifyQueue := told.verifyQueue, emergency := b
        debounce := told.debounce }
      = told := by
  subst h
  intro told
  rw [Wb610.assertEmergency_eq]
  generalize ({ p with debounce := none, emergency := true } : Wb610).eachLane Wb610.freeLane = q
  exact Wb610.report_of_emergency { p with tally := 0 } q.lanes q.table q.verifyQueue true none ..

/-- R171: the deassertion, told by its report. -/
theorem Wb610.deassertEmergency_told {b : Bool} (h : p.emergency = b) :
    let told := p.report .emergencyEnd none 0 p.tally .none
    { ({ p with debounce := none, emergency := false } : Wb610).deassertEmergency with
        lanes := told.lanes, emergency := b, debounce := told.debounce }
      = told := by
  subst h
  rw [Wb610.deassertEmergency_eq]
  generalize ({ p with debounce := none, emergency := false } : Wb610).eachLane Wb610.returnLane = q
  simp only [Wb610.report_eq]

end

/-- Settles O49. -/
theorem emergencyFreesAndReturns : Obligations.EmergencyFreesAndReturns := by
  intro s p
  refine ⟨fun isOpen => rfl, fun stopped => State.next_congr (Wb610.debounceExpiry_of_stopped stopped),
    fun running same => ?_, fun running raw emergency follows => ?_, fun running raw emergency follows => ?_⟩
  · refine State.next_congr ((Wb610.debounceExpiry_of_running running).trans ((if_pos same).trans ?_))
    rw [same]
  · refine ⟨_, State.next_congr (Wb610.debounceExpiry_of_raised running raw emergency), fun l => ?_, ?_,
      Wb610.assertEmergency_emergency _, Wb610.assertEmergency_debounce _, Wb610.assertEmergency_table _,
      Wb610.assertEmergency_verifyQueue _⟩
    · intro x
      rw [Wb610.lane_assertEmergency, Wb610.lane_freeLane, Wb610.lane_setLane_same]
      refine congrArg Lane.sync (Lane.enterFree_cancelled (x := x) (follows l) ?_)
      cases x.state <;> rfl
    · exact p.assertEmergency_told emergency
  · refine ⟨_, State.next_congr (Wb610.debounceExpiry_of_lowered running raw emergency), fun l => ?_, ?_,
      Wb610.deassertEmergency_emergency _, Wb610.deassertEmergency_debounce _⟩
    · intro x y
      rw [Wb610.lane_deassertEmergency, Wb610.lane_setLane_same]
      exact congrArg Lane.sync (Lane.leaveFree_eq rfl)
    · exact p.deassertEmergency_told emergency

end Sys2Proof.Machine
end

