-- ==== Sys2Proof/Proofs/Restarts.lean ====
section
/-! RESTART at every block (R31, R81, R101, R120, R134, R176). -/

namespace Sys2Proof.Machine

/-! ## One lane -/

section
variable (x : Lane)

/-- R81: a lane after RESTART, its query cancelled and its hold released before. -/
def Lane.restarted : Lane := x.queryDropped.holdReleased.restart.sync

theorem Lane.restarted_kept :
    x.restarted.config = x.config ∧ x.restarted.counters = x.counters
      ∧ x.restarted.queryCounter = x.queryCounter ∧ x.restarted.hold = none ∧ x.restarted.slot = none
      ∧ x.restarted.state = x.state.afterRestart
      ∧ x.restarted.rotor = { x.rotor.rest with faults := 0, forced := false } := by
  have unlit := x.cancelled_unlit
  unfold Lane.restarted
  generalize x.queryDropped.holdReleased = z at unlit ⊢
  have state : z.state = x.state := (congrArg Lane.state unlit :)
  have rotor : z.rotor = x.rotor := (congrArg Lane.rotor unlit :)
  refine ⟨(congrArg Lane.config unlit :), (congrArg Lane.counters unlit :), (congrArg Lane.queryCounter unlit :),
    (congrArg Lane.hold unlit :), (congrArg Lane.slot unlit :), congrArg LaneState.afterRestart state, ?_⟩
  rw [← rotor]
  rfl

/-- R81: what RESTART clears of a lane. -/
theorem Lane.restarted_cleared :
    x.restarted.closePending = none ∧ x.restarted.verified = false ∧ x.restarted.offlineAdmit = false
      ∧ x.restarted.current = none ∧ x.restarted.next = none ∧ x.restarted.repeatMemory = none
      ∧ x.restarted.testRelease = none ∧ x.restarted.port = .fresh ∧ x.restarted.reader = .fresh
      ∧ x.restarted.signals.tone = none ∧ x.restarted.signals.commanded = .stop :=
  ⟨rfl, rfl, rfl, rfl, rfl, rfl, rfl, rfl, rfl, Lane.sync_tone _, Lane.sync_commanded _⟩

theorem Lane.restarted_lockOn : x.restarted.lockOn = x.state.isFree := by
  obtain ⟨-, -, -, -, -, state, -⟩ := x.restarted_kept
  have lock : x.restarted.lockOn = lockFor x.restarted.config none x.restarted.state := rfl
  rw [lock, state]
  cases x.state <;> rfl

theorem signalFor_afterRestart (s : LaneState) :
    signalFor .stop s.afterRestart = if s.isFree then .free else .stop := by
  cases s <;> rfl

theorem signalFor_of_free {s : LaneState} (h : s.isFree = true) (commanded : Signal) : signalFor commanded s = .free := by
  cases s with
  | free back => rfl
  | _ => cases h

theorem Lane.restarted_shown : x.restarted.signals.shown = if x.state.isFree then .free else .stop := by
  obtain ⟨-, -, -, -, -, state, -⟩ := x.restarted_kept
  have shown : x.restarted.signals.shown = signalFor .stop x.restarted.state := Lane.sync_shown _
  rw [shown, state, signalFor_afterRestart]

theorem SignalUnit.display_flash_eq (u : SignalUnit) (s : Signal) :
    (u.display s).flash
      = if u.shown = s then u.flash else if s.flashes then some { lit := true, left := flashHalf } else none := by
  unfold SignalUnit.display
  split <;> rfl

/-- Log 24: a lane that showed FREE keeps its flash phase. -/
theorem Lane.restarted_flash (h : x.OutputsFollow) :
    x.restarted.signals.flash = if x.state.isFree then x.signals.flash else none := by
  have signals : x.queryDropped.holdReleased.signals = x.signals :=
    (congrArg Lane.signals (x.cancelled_of_follows h) :)
  have state : x.queryDropped.holdReleased.state = x.state := (congrArg Lane.state (x.cancelled_of_follows h) :)
  have phase : x.restarted.signals.flash
      = if x.signals.shown = signalFor .stop x.state.afterRestart then x.signals.flash
        else if (signalFor .stop x.state.afterRestart).flashes then some { lit := true, left := flashHalf }
        else none := by
    rw [← signals, ← state]
    exact SignalUnit.display_flash_eq _ _
  obtain ⟨-, shown, flash⟩ := h
  rw [phase, signalFor_afterRestart]
  cases free : x.state.isFree with
  | true =>
    rw [signalFor_of_free free] at shown
    exact if_pos shown
  | false =>
    by_cases stop : x.signals.shown = .stop
    · rw [stop] at flash
      exact (if_pos stop).trans (Option.isNone_iff_eq_none.mp (by rw [← Option.not_isSome, flash]; rfl))
    · exact if_neg stop

end

/-! ## The gate -/

section
variable (p : Wb610) (l : LaneNo)

theorem Wb610.lane_restartLane : (p.restartLane l).lane l = (p.lane l).restarted := by
  rw [Wb610.restartLane, Wb610.lane_modLane_same, Wb610.lane_cancel]
  rfl

theorem Wb610.restartLane_lane_ne (m : LaneNo) (h : m ≠ l) : (p.restartLane l).lane m = p.lane m := by
  rw [Wb610.restartLane, Wb610.lane_modLane_ne _ l m _ h, Wb610.releaseHold_lane_ne _ l m h, p.dropQuery_lane_ne l m h]

theorem Wb610.lane_eachRestart : (p.eachLane Wb610.restartLane).lane l = (p.lane l).restarted :=
  Wb610.lane_eachLane_eq (fun q l m h => q.restartLane_lane_ne l m h) (fun q l => q.lane_restartLane l) p l

theorem Wb610.table_eachRestart :
    (p.eachLane Wb610.restartLane).table
      = laneNos.foldl (fun t l => t.releasedFor (p.clock.getD 0) (p.lane l)) p.table := by
  refine Wb610.eachLane_field (fun q l m h => q.restartLane_lane_ne l m h) Wb610.table
    (I := fun q => q.clock = p.clock) (fun q l hq => (q.inCycle_cancel l).clock.trans hq) (fun q l hq => ?_) rfl
  rw [Wb610.restartLane, Wb610.modLane_table, Wb610.table_cancel, hq]

/-- R109: the arbiter's choice, told by the next reader. -/
theorem Wb610.chooseReader_eq (h : p.poll = none) :
    p.chooseReader
      = { p with
          pollPointer := p.nextReader.getD p.pollPointer
          poll := p.nextReader.map fun l => { lane := l, window := none, leftBus := false } } := by
  cases hn : p.nextReader with
  | none =>
    rw [Wb610.chooseReader_of_no_reader hn]
    simp only [Option.getD_none, Option.map_none, ← h]
  | some l => exact Wb610.chooseReader_of_reader h hn

/-- R120: the first reader on the bus. -/
def Wb610.firstReader (p : Wb610) : Option LaneNo :=
  laneNos.find? fun l => decide ((p.lane l).config.cardSource = .bus)

/-- R120: with every reader fresh and the pointer at lane 9 the arbiter takes the first reader on the bus. -/
theorem Wb610.chooseReader_of_fresh {p : Wb610} {first : Option LaneNo} (hpoll : p.poll = none)
    (hp : p.pollPointer = 9) (fresh : ∀ m, (p.lane m).reader = .fresh) (hf : p.firstReader = first) :
    p.chooseReader
      = { p with
          pollPointer := first.getD 9
          poll := first.map fun l => { lane := l, window := none, leftBus := false } } := by
  have online (m : LaneNo) : (p.lane m).readerOnBus = decide ((p.lane m).config.cardSource = .bus) := by
    simp [Lane.readerOnBus, fresh m, Reader.fresh]
  have order : lanesAfter 9 = laneNos := rfl
  have next : p.nextReader = first := by
    rw [Wb610.nextReader_of_none_due p fun m => by simp [Lane.readerDue, fresh m, Reader.fresh], hp, order, ← hf]
    simp only [online, Wb610.firstReader]
  rw [Wb610.chooseReader_eq p hpoll, next, hp]

theorem Wb610.restartBlocks_eq :
    p.restartBlocks
      = { p with
          lanes := (p.eachLane Wb610.restartLane).lanes, table := (p.eachLane Wb610.restartLane).table
          pollPointer := p.firstReader.getD 9
          poll := p.firstReader.map fun l => { lane := l, window := none, leftBus := false }
          verifyQueue := [], visitTimer := some p.settings.visitTime, fastPass := false, fastCount := 0
          handler := .awaitingRestartResponse, restartReleased := p.holdCount } := by
  have gate := Wb610.eq_of_gate (Wb610.eachLane_gate (fun q l => q.cancel_gate l) p (act := Wb610.restartLane))
  have lanes := p.lane_eachRestart
  unfold Wb610.restartBlocks
  generalize p.eachLane Wb610.restartLane = q at gate lanes ⊢
  have bus (m : LaneNo) : (q.lane m).config = (p.lane m).config := by
    obtain ⟨config, -⟩ := (p.lane m).restarted_kept
    rw [lanes, config]
  have fresh (m : LaneNo) : (q.lane m).reader = .fresh := by
    rw [lanes]
    rfl
  have first : q.firstReader = p.firstReader := by
    simp only [bus, Wb610.firstReader]
  refine Eq.trans (Wb610.chooseReader_of_fresh (by rfl) (by rfl) (by exact fresh) (by exact first)) ?_
  exact congrArg (fun r => { r with
    pollPointer := p.firstReader.getD 9
    poll := p.firstReader.map fun l => { lane := l, window := none, leftBus := false }
    verifyQueue := [], visitTimer := some p.settings.visitTime, fastPass := false, fastCount := 0
    handler := .awaitingRestartResponse, restartReleased := p.holdCount }) gate

end

/-- Settles O15. -/
theorem restartStartsAfresh : Obligations.RestartStartsAfresh := by
  intro s f rest taken htype hp
  let r : Wb610 := { s.part with rxBuffer := rest }
  have step : s.part.serveFixed 0x50#8 0 (fun q f => q.restartBlocks.respond f .ok [])
      = r.restartBlocks.respond f .ok [] :=
    taken.serveFixed _ htype (by rw [hp]; rfl)
  have lanes (l : LaneNo) : (r.eachLane Wb610.restartLane).lane l = (s.part.lane l).restarted := r.lane_eachRestart l
  have table := r.table_eachRestart
  rw [r.restartBlocks_eq] at step
  generalize r.eachLane Wb610.restartLane = e at step lanes table
  obtain ⟨-, idle, -⟩ := taken
  refine ⟨_, State.next_congr step, rfl, rfl, rfl, rfl, rfl, rfl, rfl, rfl, rfl, rfl, rfl, rfl, rfl, rfl, rfl, rfl, rfl,
    rfl, rfl, rfl, rfl, rfl, rfl, rfl, rfl, rfl, rfl, rfl, idle, table, rfl, rfl, fun l => ?_⟩
  · intro x y
    have hy : y = x.restarted := lanes l
    clear_value y
    subst hy
    obtain ⟨config, counters, queryCounter, hold, slot, state, rotor⟩ := x.restarted_kept
    obtain ⟨closePending, verified, offlineAdmit, current, next, repeatMemory, testRelease, port, reader, tone,
      commanded⟩ := x.restarted_cleared
    refine ⟨state.trans ?_, config, counters, queryCounter, closePending, hold, verified, offlineAdmit, slot, current, next,
      repeatMemory, testRelease, (congrArg Rotor.lineA rotor :), (congrArg Rotor.lineB rotor :),
      (congrArg Rotor.offset rotor :), (congrArg Rotor.peak rotor :), (congrArg Rotor.faults rotor :),
      (congrArg Rotor.forced rotor :), port, reader, x.restarted_lockOn.trans ?_,
      x.restarted_shown.trans ?_, fun h => (x.restarted_flash h).trans ?_, tone, commanded⟩
    all_goals cases x.state <;> rfl

end Sys2Proof.Machine
end

