-- ==== Sys2Proof/Proofs/StatusFields.lean ====
section
/-! STATUS READ: the parts of the response and the blocks they are read from (R190). -/

namespace Sys2Proof.Machine

/-! ## The parts -/

/-- R190: the bytes of the gate at this moment, each part with its block. -/
def Wb610.gateFields (p : Wb610) : List (StatusBlock × List Byte) := gateParts.map fun r => (r.1, r.2 p)

/-- R190: the bytes of a lane. -/
def Lane.statusFields (l : LaneNo) (x : Lane) : List (StatusBlock × List Byte) :=
  (laneParts l).map fun r => (r.1, r.2 x)

/-- R190: the bytes of every part of the response. -/
def Wb610.statusFields (p : Wb610) : List (StatusBlock × List Byte) := statusParts.map fun r => (r.1, r.2 p)

section
variable (p : Wb610)

theorem Wb610.statusFields_eq :
    p.statusFields = p.gateFields ++ laneNos.flatMap fun l => (p.lane l).statusFields l := by
  simp only [Wb610.statusFields, statusParts, List.map_append, List.map_flatMap, List.map_map, Function.comp_def,
    Wb610.gateFields, Lane.statusFields]

theorem Wb610.statusFields_with_rxBuffer (rest : List Frame) :
    ({ p with rxBuffer := rest } : Wb610).statusFields = p.statusFields := by
  rw [Wb610.statusFields_eq, Wb610.statusFields_eq]
  rfl

theorem Wb610.statusFields_length : p.statusFields.length = 68 := by
  rw [Wb610.statusFields, List.length_map, statusParts_length]

theorem Wb610.gateFields_bytes : (p.gateFields.flatMap fun r => r.2).length = 22 := by
  simp [Wb610.gateFields, gateParts, beBytes_length, optional32]

theorem Lane.statusFields_bytes (l : LaneNo) (x : Lane) : ((x.statusFields l).flatMap fun r => r.2).length = 17 := by
  simp [Lane.statusFields, laneParts, beBytes_length]

/-- R190: the bytes of a lane, its codes of optional values given. -/
theorem Lane.statusFields_of (l : LaneNo) (x : Lane) {cause closing slots tag queryCause tone : Nat}
    (hcause : x.state.causeCode = cause) (hclosing : x.closePending.elim 0 (·.code) = closing)
    (hslots : x.slotsCode = slots) (htag : x.slot.elim 0xFF (·.tag) = tag)
    (hquery : x.slot.elim 0 (·.cause.code) = queryCause) (htone : x.signals.tone.elim 0 (·.pattern.code) = tone) :
    x.statusFields l
      = [(.laneController l, [byte x.state.code, byte cause, byte closing, byte slots]),
          (.rotorDecoder l, [BitVec.ofInt 8 x.rotor.offset, byte x.rotor.peak] ++ beBytes 2 x.rotor.faults),
          (.barcodePort l, [if x.port.fault then 1 else 0] ++ beBytes 2 x.port.badCount),
          (.cardReaderBus, [if x.reader.online then 1 else 2, byte x.reader.misses]),
          (.verifyUnit, [byte tag, byte queryCause]),
          (.signalUnit l, [byte x.signals.shown.code, byte tone])] := by
  subst hcause hclosing hslots htag hquery htone
  simp only [Lane.statusFields, laneParts, List.map_cons, List.map_nil, byte_onlineCode]
  rfl

theorem Wb610.statusFields_bytes : (p.statusFields.flatMap fun r => r.2).length = 192 := by
  have lanes : ((laneNos.flatMap fun l => (p.lane l).statusFields l).flatMap fun r => r.2).length = 170 := by
    rw [List.flatMap_assoc, List.length_flatMap]
    simp only [Lane.statusFields_bytes]
    rfl
  rw [Wb610.statusFields_eq, List.flatMap_append, List.length_append, p.gateFields_bytes, lanes]

/-! ## Blocks read -/

theorem Wb610.readBlocks_eq (blocks : List StatusBlock) (read : List (Option (List Byte))) :
    p.readBlocks blocks read
      = (p.statusFields.zip read).map fun r => r.2 <|> if r.1.1 ∈ blocks then some r.1.2 else none := by
  rw [Wb610.readBlocks, Wb610.statusFields, List.zip_map_left, List.map_map, List.zip, List.map_zipWith]
  rfl

theorem Wb610.readBlocks_of_none (blocks : List StatusBlock) :
    p.readBlocks blocks (statusParts.map fun _ => none)
      = p.statusFields.map fun r => if r.1 ∈ blocks then some r.2 else none := by
  rw [Wb610.readBlocks, List.zipWith_map_right, List.zipWith_self, Wb610.statusFields, List.map_map]
  rfl

theorem filterMap_id_flatten (read : List (Option (List Byte))) :
    (read.filterMap id).flatten = (read.map fun r => r.getD []).flatten := by
  induction read with
  | nil => rfl
  | cons r read ih =>
    cases r with
    | none => exact ih
    | some bytes => exact congrArg (bytes ++ ·) ih

/-- R190: STATUS READ's next step. -/
theorem Wb610.continueStatus_eq (tag : Byte) (read : List (Option (List Byte))) :
    p.continueStatus tag read
      = if none ∈ read then { p with request := some (.status tag read) }
        else
          { p with
            request := none
            responses := p.responses
              ++ [{ type := 0x82#8, tag := tag, payload := 0 :: (read.map fun r => r.getD []).flatten }] } := by
  by_cases missing : none ∈ read
  · rw [p.continueStatus_of_missing tag read missing, if_pos missing]
  · rw [p.continueStatus_of_read tag read missing, if_neg missing, filterMap_id_flatten]
    rfl

end

/-- Settles O11. -/
theorem statusReadShowsEveryBlock : Obligations.StatusReadShowsEveryBlock := by
  unfold Obligations.StatusReadShowsEveryBlock
  intro gate shown parts after
  have gateIs (p : Wb610) : gate p = p.gateFields := by
    simp only [gate, Wb610.gateFields, gateParts, List.map_cons, List.map_nil, byte_onlineCode]
    rfl
  have shownIs (l : LaneNo) (x : Lane) : shown l x = x.statusFields l := by
    refine (Lane.statusFields_of l x ?_ ?_ ?_ ?_ ?_ ?_).symm
    · cases x.state <;> rfl
    · cases x.closePending <;> rfl
    · unfold Lane.slotsCode
      cases x.current <;> cases x.next <;> rfl
    · cases x.slot <;> rfl
    · cases x.slot <;> rfl
    · cases x.signals.tone <;> rfl
  have partsAre (p : Wb610) : parts p = p.statusFields := by
    rw [p.statusFields_eq, ← gateIs]
    simp only [← shownIs]
    rfl
  have goesOn (s : State) (rest : List Frame) (tag : Byte) (read : List (Option (List Byte))) :
      ({ s with part := ({ s.part with rxBuffer := rest } : Wb610).continueStatus tag read } : State)
        = after s rest tag read :=
    congrArg (fun q => { s with part := q }) (Wb610.continueStatus_eq _ tag read)
  refine ⟨fun s f rest blocks taken htype hp => ?_, fun s tag read blocks reading => ?_, fun p => ?_⟩
  · have step : exec (.statusRead blocks) s
        = .next (after s rest f.tag ((parts s.part).map fun r => if r.1 ∈ blocks then some r.2 else none)) := by
      have read := ({ s.part with rxBuffer := rest } : Wb610).readBlocks_of_none blocks
      rw [Wb610.statusFields_with_rxBuffer, ← partsAre] at read
      rw [← goesOn, ← read]
      exact State.next_congr ((Wb610.statusRead_of_not_reading blocks taken.not_reading).trans
        (taken.serveFixed _ htype (by rw [hp]; rfl)))
    refine ⟨step, fun all => step.trans ?_⟩
    have everything : (parts s.part).map (fun r => if r.1 ∈ blocks then some r.2 else none)
        = (parts s.part).map fun r => some r.2 :=
      List.map_congr_left fun r hr => if_pos (all r hr)
    have full : none ∉ (parts s.part).map fun r => some r.2 := by simp
    obtain ⟨-, idle, -⟩ := taken
    rw [everything]
    refine State.next_congr ((if_neg full).trans ?_)
    rw [List.map_map, List.flatMap_def, ← idle, Frame.reply, htype]
    rfl
  · have step : s.part.statusRead blocks = s.part.continueStatus tag (s.part.readBlocks blocks read) := by
      simp only [Wb610.statusRead, reading]
    have kept : s.part.readBlocks blocks read = ((parts s.part).zip read).map fun r =>
        r.2 <|> if r.1.1 ∈ blocks then some r.1.2 else none := by
      rw [partsAre, Wb610.readBlocks_eq]
    refine (State.next_congr step).trans (congrArg Host.Outcome.next ((goesOn s s.part.rxBuffer tag _).trans ?_))
    rw [kept]
    refine congrArg (fun g => after s s.part.rxBuffer tag (((parts s.part).zip read).map g)) (funext fun r => ?_)
    cases r.2 <;> rfl
  · rw [partsAre]
    exact ⟨p.statusFields_length, p.statusFields_bytes⟩

end Sys2Proof.Machine
end

