-- ==== Sys2Proof/Proofs/EntryRecords.lean ====
section
/-! SUPPORT. Entry records: where each field stands, and the entry read back (R12, R194). -/

namespace Sys2Proof.Machine

/-! ## The fields -/

section
variable (e : Entry)

theorem Entry.record_eq :
    e.record
      = e.key.record ++ (byte e.cls.val :: (beBytes 2 e.groups.toNat
        ++ (beBytes 2 (e.window.elim 0xFFFF (·.fromMinute)) ++ (beBytes 2 (e.window.elim 0xFFFF (·.untilMinute))
        ++ (byte e.passouts.val :: e.flagsByte :: byte e.state.code :: byte (e.state.hold.elim 0xFF (·.lane.val))
          :: e.state.hold.elim 0 (·.holdByte) :: (beBytes 4 (e.state.expiry.getD 0xFFFFFFFF)
        ++ (byte (e.lastUse.elim 0xFF fun u => useLaneCode u.lane)
          :: beBytes 4 ((e.lastUse.map (·.time)).getD 0xFFFFFFFF)))))))) := by
  simp [Entry.record, optional32]

theorem Entry.record_length : e.record.length = 32 := by
  simp [Entry.record_eq, beBytes_length, Key.record_length]

theorem Entry.record_key : e.record.take 11 = e.key.record := by
  rw [e.record_eq, List.take_left' e.key.record_length]

theorem EntryState.code_lt (st : EntryState) : st.code < 256 := by
  cases st <;> simp only [EntryState.code] <;> decide

theorem EntryState.holdLane_lt (st : EntryState) : st.hold.elim 0xFF (·.lane.val) < 256 := by
  cases st.hold with
  | none => decide
  | some h => exact h.lane.isLt.trans (by decide)

theorem useLaneCode_lt (u : UseLane) : useLaneCode u < 16 := by
  cases u with
  | lane l => exact l.isLt.trans (by decide)
  | elsewhere => decide

theorem Entry.useLane_lt : (e.lastUse.elim 0xFF fun u => useLaneCode u.lane) < 256 := by
  cases e.lastUse with
  | none => decide
  | some u => exact (useLaneCode_lt u.lane).trans (by decide)

/-- R194: the fields that stand whatever the entry. -/
theorem Entry.record_fields :
    fieldAt e.record 11 1 = e.cls.val ∧ fieldAt e.record 12 2 = e.groups.toNat
      ∧ fieldAt e.record 18 1 = e.passouts.val ∧ fieldAt e.record 19 1 = e.flagsByte.toNat
      ∧ fieldAt e.record 20 1 = e.state.code ∧ fieldAt e.record 21 1 = e.state.hold.elim 0xFF (·.lane.val)
      ∧ fieldAt e.record 22 1 = (e.state.hold.elim 0 (·.holdByte)).toNat
      ∧ fieldAt e.record 27 1 = e.lastUse.elim 0xFF fun u => useLaneCode u.lane := by
  have cls : e.cls.val < 256 := by omega
  have passouts : e.passouts.val < 256 := by omega
  have groups : e.groups.toNat < 65536 := e.groups.isLt
  simp [Entry.record_eq, fieldAt_past_beBytes, fieldAt_past_key, fieldAt_beBytes, fieldAt_cons, fieldAt_head,
    byte_toNat, cls, passouts, groups, e.state.code_lt, e.state.holdLane_lt, e.useLane_lt]

theorem Entry.record_window {f u : Nat} (hf : e.window.elim 0xFFFF (·.fromMinute) = f)
    (hu : e.window.elim 0xFFFF (·.untilMinute) = u) (hf' : f < 65536) (hu' : u < 65536) :
    fieldAt e.record 14 2 = f ∧ fieldAt e.record 16 2 = u := by
  simp [Entry.record_eq, fieldAt_past_beBytes, fieldAt_past_key, fieldAt_beBytes, fieldAt_cons, hf, hu, hf', hu']

theorem Entry.record_expiry {x : Nat} (hx : e.state.expiry.getD 0xFFFFFFFF = x) (hx' : x < 4294967296) :
    fieldAt e.record 23 4 = x := by
  simp [Entry.record_eq, fieldAt_past_beBytes, fieldAt_past_key, fieldAt_beBytes, fieldAt_cons, hx, hx']

theorem Entry.record_useTime {t : Nat} (ht : (e.lastUse.map (·.time)).getD 0xFFFFFFFF = t) (ht' : t < 4294967296) :
    fieldAt e.record 28 4 = t := by
  simp [Entry.record_eq, fieldAt_past_beBytes, fieldAt_past_key, fieldAt_all, fieldAt_cons, ht, ht']

theorem byte_flags (a b c : Bool) :
    (byte ((if a then 1 else 0) + (if b then 2 else 0) + (if c then 4 else 0))).toNat
      = a.toNat + 2 * b.toNat + 4 * c.toNat := by
  revert a b c
  decide

theorem Entry.flagsByte_of_held {h : HoldRecord} (hs : e.state.hold = some h) :
    e.flagsByte.toNat = e.verify.toNat + 2 * h.revokePending.toNat + 4 * h.enteredElsewhere.toNat := by
  simp only [Entry.flagsByte, hs, Option.any_some]
  exact byte_flags ..

theorem Entry.flagsByte_of_free (hs : e.state.hold = none) : e.flagsByte.toNat = e.verify.toNat := by
  simp only [Entry.flagsByte, hs, Option.any_none]
  exact byte_flags e.verify false false

theorem HoldRecord.holdByte_toNat (h : HoldRecord) : h.holdByte.toNat = 16 * h.purpose.code + h.prior.code := by
  cases hp : h.purpose <;> cases hr : h.prior <;> simp [HoldRecord.holdByte, hp, hr, Purpose.code, Prior.code, byte]

/-- R194: the fields of an entry that is not HELD. -/
theorem Entry.record_of_free (hs : e.state.hold = none) :
    fieldAt e.record 19 1 = e.verify.toNat ∧ fieldAt e.record 21 1 = 0xFF ∧ fieldAt e.record 22 1 = 0 := by
  obtain ⟨-, -, -, flags, -, lane, hold, -⟩ := e.record_fields
  rw [e.flagsByte_of_free hs] at flags
  rw [hs] at lane hold
  exact ⟨flags, lane, hold⟩

/-- R194: the fields of a HELD entry. -/
theorem Entry.record_of_held {h : HoldRecord} (hs : e.state.hold = some h) :
    fieldAt e.record 19 1 = e.verify.toNat + 2 * h.revokePending.toNat + 4 * h.enteredElsewhere.toNat
      ∧ fieldAt e.record 21 1 = h.lane.val ∧ fieldAt e.record 22 1 = 16 * h.purpose.code + h.prior.code := by
  obtain ⟨-, -, -, flags, -, lane, hold, -⟩ := e.record_fields
  rw [e.flagsByte_of_held hs] at flags
  rw [hs] at lane hold
  exact ⟨flags, lane, hold.trans h.holdByte_toNat⟩

end

/-! ## The record read back (R12) -/

theorem windowOf_some {w : Window} (hw : w.fromMinute ≤ w.untilMinute ∧ w.untilMinute ≤ 4319) :
    windowOf w.fromMinute w.untilMinute = some (some w) := by
  have bounded : ¬ (w.fromMinute = 0xFFFF ∧ w.untilMinute = 0xFFFF) := by omega
  exact (if_neg bounded).trans (if_pos hw)

theorem lastUseOf_some {u : LastUse} (hu : u.time ≤ 259199) : lastUseOf (useLaneCode u.lane) u.time = some (some u) := by
  have lane := useLaneCode_lt u.lane
  have read : useLaneOf (useLaneCode u.lane) = some u.lane := by
    cases u.lane with
    | lane l =>
      have named : useLaneCode (.lane l) ≠ 15 := by
        simp only [useLaneCode]
        omega
      rw [useLaneOf, if_neg named, useLaneCode, laneOf_val]
      rfl
    | elsewhere => rfl
  have present : ¬ (useLaneCode u.lane = 0xFF ∧ u.time = 0xFFFFFFFF) := by omega
  have good : ¬ (useLaneCode u.lane = 0xFF ∨ u.time = 0xFFFFFFFF ∨ Config.clockMax < u.time) := by
    simp only [Config.clockMax]
    omega
  rw [lastUseOf, if_neg present, if_neg good, read]
  rfl

theorem entryStateOf_code {st : EntryState} (free : st.hold = none) (hx : ∀ x ∈ st.expiry, x ≤ 273599) :
    entryStateOf st.code (st.expiry.getD 0xFFFFFFFF) = some st := by
  cases st with
  | outOnPassout x => exact (if_pos rfl).trans (if_pos (hx x rfl))
  | held h => cases free
  | _ => rfl

theorem entryOfRecord_of_fields {r : List Byte} {key : Key} {cls passouts : Fin 16} {window : Option Window}
    {state : EntryState} {lastUse : Option LastUse} (hkey : keyAt r 0 = some key) (hcls : nibbleOf (byteAt r 11) = some cls)
    (hwindow : windowOf (fieldAt r 14 2) (fieldAt r 16 2) = some window)
    (hpassouts : nibbleOf (byteAt r 18) = some passouts)
    (hstate : entryStateOf (byteAt r 20) (fieldAt r 23 4) = some state)
    (huse : lastUseOf (byteAt r 27) (fieldAt r 28 4) = some lastUse) :
    entryOfRecord r
      = if key.paddingZero && recordHoldsNothing r then
          some
            { key, cls, groups := BitVec.ofNat 16 (fieldAt r 12 2), window, passouts
              verify := (byteAt r 19).testBit 0, state, lastUse }
        else none := by
  simp only [entryOfRecord, hkey, hcls, hwindow, hpassouts, hstate, huse, Option.bind_eq_bind, Option.bind_some]

/-- R12: an entry that no lane holds, its values in their ranges, reads back from its record. -/
theorem Entry.read_record (e : Entry) (padding : e.key.paddingZero = true) (free : e.state.hold = none)
    (hw : ∀ w ∈ e.window, w.fromMinute ≤ w.untilMinute ∧ w.untilMinute ≤ 4319)
    (hx : ∀ x ∈ e.state.expiry, x ≤ 273599) (hu : ∀ u ∈ e.lastUse, u.time ≤ 259199) :
    entryOfRecord e.record = some e := by
  obtain ⟨cls, groups, passouts, -, state, -, -, useLane⟩ := e.record_fields
  obtain ⟨flags, holdLane, hold⟩ := e.record_of_free free
  have key : keyAt e.record 0 = some e.key := by
    rw [e.record_eq]
    exact keyAt_record_append _ _
  have window : windowOf (fieldAt e.record 14 2) (fieldAt e.record 16 2) = some e.window := by
    cases h : e.window with
    | none =>
      obtain ⟨f, u⟩ := e.record_window (by rw [h]) (by rw [h]) (by decide) (by decide)
      rw [f, u]
      rfl
    | some w =>
      have bounds := hw w h
      obtain ⟨f, u⟩ := e.record_window (f := w.fromMinute) (u := w.untilMinute) (by rw [h]; rfl) (by rw [h]; rfl)
        (by omega) (by omega)
      rw [f, u, windowOf_some bounds]
  have expiry : fieldAt e.record 23 4 = e.state.expiry.getD 0xFFFFFFFF := by
    refine e.record_expiry rfl ?_
    cases h : e.state.expiry with
    | none => decide
    | some x => exact (hx x h).trans_lt (by decide)
  have lastUse : lastUseOf (fieldAt e.record 27 1) (fieldAt e.record 28 4) = some e.lastUse := by
    rw [useLane]
    cases h : e.lastUse with
    | none =>
      rw [e.record_useTime (by rw [h]) (by decide)]
      rfl
    | some u =>
      have bound := hu u h
      rw [e.record_useTime (t := u.time) (by rw [h]; rfl) (by omega)]
      exact lastUseOf_some bound
  have nothing : recordHoldsNothing e.record = true := by
    have holdLane' : byteAt e.record 21 = 0xFF := holdLane
    have hold' : byteAt e.record 22 = 0 := hold
    have flags' : byteAt e.record 19 = e.verify.toNat := flags
    rw [recordHoldsNothing, holdLane', hold', flags']
    cases e.verify <;> rfl
  have read := entryOfRecord_of_fields key (cls := e.cls) (passouts := e.passouts) (state := e.state)
    (by rw [byteAt, cls, nibbleOf_val]) window (by rw [byteAt, passouts, nibbleOf_val])
    (by rw [byteAt, state, expiry, entryStateOf_code free hx]) lastUse
  have verify : (byteAt e.record 19).testBit 0 = e.verify := by
    rw [byteAt, flags]
    cases e.verify <;> rfl
  rw [read, padding, nothing, verify, groups, BitVec.ofNat_toNat, BitVec.setWidth_eq]
  rfl

end Sys2Proof.Machine
end

