-- ==== Sys2Proof/Proofs/EntryChecks.lean ====
section
/-! Which 32-byte records are refused: those that fail a check of R12. -/

namespace Sys2Proof.Machine

/-! ## One check after the other -/

theorem nibbleOf_eq_none_iff (n : Nat) : nibbleOf n = none ↔ 15 < n := by
  simp only [nibbleOf, dite_eq_right_iff, reduceCtorEq, imp_false]
  omega

theorem keyKindOf_eq_none_iff (n : Nat) : KeyKind.ofCode n = none ↔ n < 1 ∨ 4 < n := by
  refine ⟨fun h => ?_, fun h => KeyKind.ofCode_of_unlisted (by omega)⟩
  by_contra listed
  obtain rfl | rfl | rfl | rfl : n = 1 ∨ n = 2 ∨ n = 3 ∨ n = 4 := by omega
  all_goals cases h

theorem KeyKind.code_of_ofCode {n : Nat} {k : KeyKind} (h : KeyKind.ofCode n = some k) : n = k.code := by
  unfold KeyKind.ofCode at h
  split at h <;> cases h <;> rfl

theorem windowOf_eq_none_iff (f u : Nat) :
    windowOf f u = none ↔ ¬ (f = 0xFFFF ∧ u = 0xFFFF) ∧ (4319 < f ∨ 4319 < u ∨ u < f) := by
  unfold windowOf Config.minuteMax
  split
  · next absent => simp [absent]
  · next present =>
    simp only [present, not_false_eq_true, true_and, ite_eq_right_iff, reduceCtorEq, imp_false]
    omega

theorem entryStateOf_eq_none_iff (state expiry : Nat) :
    entryStateOf state expiry = none
      ↔ (state = 6 ∨ state < 1 ∨ 6 < state) ∨ (expiry ≠ 0xFFFFFFFF ∧ state ≠ 3)
        ∨ (expiry = 0xFFFFFFFF ∧ state = 3) ∨ (expiry ≠ 0xFFFFFFFF ∧ 273599 < expiry) := by
  by_cases out : state = 3
  · subst out
    unfold entryStateOf
    rw [if_pos rfl]
    simp only [Config.expiryMax, ite_eq_right_iff, reduceCtorEq, imp_false, and_true]
    omega
  · by_cases expires : expiry = 0xFFFFFFFF
    · subst expires
      have listed : entryStateOf state 0xFFFFFFFF = none ↔ ¬ (state = 1 ∨ state = 2 ∨ state = 4 ∨ state = 5) := by
        unfold entryStateOf
        rw [if_neg out, if_neg (not_not.mpr rfl)]
        split <;> simp_all
      rw [listed]
      omega
    · simp [entryStateOf, out, expires]

theorem useLaneOf_eq_none_iff (n : Nat) : useLaneOf n = none ↔ 9 < n ∧ n ≠ 15 := by
  unfold useLaneOf
  split
  · next elsewhere => simp [elsewhere]
  · next other =>
    simp only [Option.map_eq_none_iff, laneOf, dite_eq_right_iff, reduceCtorEq, imp_false]
    omega

theorem lastUseOf_eq_none_iff (lane time : Nat) :
    lastUseOf lane time = none
      ↔ (lane ≠ 0xFF ∧ time = 0xFFFFFFFF) ∨ (lane = 0xFF ∧ time ≠ 0xFFFFFFFF)
        ∨ (lane ≠ 0xFF ∧ 9 < lane ∧ lane ≠ 15) ∨ (time ≠ 0xFFFFFFFF ∧ 259199 < time) := by
  unfold lastUseOf Config.clockMax
  split
  · next absent => simp [absent]
  · next present =>
    split
    · next bad =>
      simp only [true_iff]
      omega
    · next good =>
      rw [Option.map_eq_none_iff, useLaneOf_eq_none_iff]
      omega

theorem recordHoldsNothing_eq_false_iff (r : List Byte) :
    recordHoldsNothing r = false
      ↔ byteAt r 21 ≠ 0xFF ∨ byteAt r 22 ≠ 0 ∨ (byteAt r 19).testBit 1 = true ∨ (byteAt r 19).testBit 2 = true := by
  simp only [recordHoldsNothing, Bool.and_eq_false_iff, decide_eq_false_iff_not, Bool.not_eq_false', or_assoc, ne_eq]

/-! ## The padding of a key -/

theorem beNatFrom_eq_zero_iff (acc : Nat) (bytes : List Byte) :
    beNatFrom acc bytes = 0 ↔ acc = 0 ∧ ∀ b ∈ bytes, b.toNat = 0 := by
  induction bytes generalizing acc with
  | nil => simp [beNatFrom]
  | cons b bytes ih =>
    rw [beNatFrom, ih, List.forall_mem_cons, ← and_assoc]
    exact and_congr_left fun _ => by omega

theorem fieldAt_succ_eq_zero_iff (r : List Byte) (off size : Nat) :
    fieldAt r off (size + 1) = 0 ↔ byteAt r off = 0 ∧ fieldAt r (off + 1) size = 0 := by
  rw [byteAt, fieldAt, fieldAt, fieldAt, ← List.drop_drop]
  cases r.drop off with
  | nil => simp [beNat, beNatFrom]
  | cons b rest => simp [beNat, beNatFrom_eq_zero_iff]

theorem fieldAt_eq_zero_iff (r : List Byte) (off size : Nat) :
    fieldAt r off size = 0 ↔ ∀ i < size, byteAt r (off + i) = 0 := by
  induction size generalizing off with
  | zero => simp [fieldAt, beNat, beNatFrom]
  | succ size ih =>
    rw [fieldAt_succ_eq_zero_iff, ih, Nat.forall_lt_succ_left]
    simp only [Nat.add_zero, Nat.add_assoc, Nat.add_comm 1]

theorem beNatFrom_eq (acc : Nat) (bytes : List Byte) : beNatFrom acc bytes = acc * 256 ^ bytes.length + beNat bytes := by
  induction bytes generalizing acc with
  | nil => simp [beNat, beNatFrom]
  | cons b bytes ih =>
    rw [beNat, beNatFrom, beNatFrom, ih, ih (256 * 0 + b.toNat), List.length_cons]
    ring

theorem fieldAt_split (r : List Byte) (off : Nat) {m n : Nat} (h : off + m + n ≤ r.length) :
    fieldAt r off (m + n) = fieldAt r off m * 256 ^ n + fieldAt r (off + m) n := by
  have behind : ((r.drop (off + m)).take n).length = n := by
    rw [List.length_take, List.length_drop]
    omega
  rw [fieldAt, beNat, List.take_add, List.drop_drop, beNatFrom_append, beNatFrom_eq, behind]
  rfl

/-- R12: a field whose first bytes are zero, and one whose last bytes are. -/
theorem fieldAt_div_eq_zero_iff {r : List Byte} {off m n : Nat} (h : off + m + n ≤ r.length) :
    fieldAt r off (m + n) / 256 ^ n = 0 ↔ fieldAt r off m = 0 := by
  rw [fieldAt_split r off h, Nat.mul_comm, Nat.mul_add_div (by positivity), Nat.div_eq_of_lt (fieldAt_lt ..), Nat.add_zero]

theorem fieldAt_mod_eq_zero_iff {r : List Byte} {off m n : Nat} (h : off + m + n ≤ r.length) :
    fieldAt r off (m + n) % 256 ^ n = 0 ↔ fieldAt r (off + m) n = 0 := by
  rw [fieldAt_split r off h, Nat.mul_comm, Nat.mul_add_mod, Nat.mod_eq_of_lt (fieldAt_lt ..)]

section
variable {r : List Byte} (hr : r.length = 32)
include hr

theorem keyBytes_shift_eq_zero_iff :
    BitVec.ofNat 80 (fieldAt r 1 10) >>> 64 = 0#80 ↔ byteAt r 1 = 0 ∧ byteAt r 2 = 0 := by
  have small : fieldAt r 1 10 < 2 ^ 80 := fieldAt_lt r 1 10
  have high := fieldAt_div_eq_zero_iff (r := r) (off := 1) (m := 2) (n := 8) (by omega)
  rw [BitVec.toNat_eq, BitVec.toNat_ushiftRight, BitVec.toNat_ofNat, Nat.mod_eq_of_lt small, Nat.shiftRight_eq_div_pow]
  refine high.trans ((fieldAt_eq_zero_iff r 1 2).trans ?_)
  exact ⟨fun h => ⟨h 0 (by decide), h 1 (by decide)⟩, fun ⟨h1, h2⟩ i hi => by
    obtain rfl | rfl : i = 0 ∨ i = 1 := by omega
    · exact h1
    · exact h2⟩

theorem keyBytes_and_eq_zero_iff {m n : Nat} (hmn : m + n = 10) :
    BitVec.ofNat 80 (fieldAt r 1 10) &&& BitVec.ofNat 80 (256 ^ n - 1) = 0#80
      ↔ ∀ i, m + 1 ≤ i → i ≤ 10 → byteAt r i = 0 := by
  have small : fieldAt r 1 10 < 2 ^ 80 := fieldAt_lt r 1 10
  have low := fieldAt_mod_eq_zero_iff (r := r) (off := 1) (m := m) (n := n) (by omega)
  have mask : 256 ^ n = 2 ^ (8 * n) := by
    rw [pow_mul]
    rfl
  have fits : 256 ^ n - 1 < 2 ^ 80 := by
    have : 2 ^ (8 * n) ≤ 2 ^ 80 := Nat.pow_le_pow_right (by decide) (by omega)
    have : 0 < 2 ^ (8 * n) := by positivity
    omega
  rw [BitVec.toNat_eq, BitVec.toNat_and, BitVec.toNat_ofNat, BitVec.toNat_ofNat, Nat.mod_eq_of_lt small,
    Nat.mod_eq_of_lt fits, mask, Nat.and_two_pow_sub_one_eq_mod, ← mask, ← hmn]
  refine low.trans ((fieldAt_eq_zero_iff r (1 + m) n).trans ⟨fun h i lo hi => ?_, fun h i hi => ?_⟩)
  · have at_i := h (i - (1 + m)) (by omega)
    rwa [Nat.add_sub_cancel' (by omega)] at at_i
  · exact h (1 + m + i) (by omega) (by omega)

/-- R12: the padding of the key of a record, by its kind. -/
theorem paddingZero_eq_false_iff {k : KeyKind} (hk : KeyKind.ofCode (byteAt r 0) = some k) :
    ({ kind := k, bytes := BitVec.ofNat 80 (fieldAt r 1 10) } : Key).paddingZero = false
      ↔ (byteAt r 0 = 1 ∧ (byteAt r 1 ≠ 0 ∨ byteAt r 2 ≠ 0))
        ∨ (byteAt r 0 = 2 ∧ ∃ i, 5 ≤ i ∧ i ≤ 10 ∧ byteAt r i ≠ 0)
        ∨ (byteAt r 0 = 3 ∧ ∃ i, 8 ≤ i ∧ i ≤ 10 ∧ byteAt r i ≠ 0) := by
  have code : byteAt r 0 = k.code := KeyKind.code_of_ofCode hk
  cases k with
  | barcode =>
    have zero := keyBytes_shift_eq_zero_iff hr
    simp only [Key.paddingZero, decide_eq_false_iff_not, code, KeyKind.code, zero]
    simp [imp_iff_not_or]
  | card4 =>
    have zero := keyBytes_and_eq_zero_iff hr (m := 4) (n := 6) rfl
    have padding : ({ kind := .card4, bytes := BitVec.ofNat 80 (fieldAt r 1 10) } : Key).paddingZero = false
        ↔ ¬ ∀ i, 5 ≤ i → i ≤ 10 → byteAt r i = 0 := decide_eq_false_iff_not.trans (not_congr zero)
    simp [padding, code, KeyKind.code]
  | card7 =>
    have zero := keyBytes_and_eq_zero_iff hr (m := 7) (n := 3) rfl
    have padding : ({ kind := .card7, bytes := BitVec.ofNat 80 (fieldAt r 1 10) } : Key).paddingZero = false
        ↔ ¬ ∀ i, 8 ≤ i → i ≤ 10 → byteAt r i = 0 := decide_eq_false_iff_not.trans (not_congr zero)
    simp [padding, code, KeyKind.code]
  | card10 => simp [Key.paddingZero, code, KeyKind.code]

end

/-! ## All checks -/

theorem entryOfRecord_eq_none_iff (r : List Byte) :
    entryOfRecord r = none
      ↔ keyAt r 0 = none ∨ (∃ key, keyAt r 0 = some key ∧ key.paddingZero = false) ∨ nibbleOf (byteAt r 11) = none
        ∨ windowOf (fieldAt r 14 2) (fieldAt r 16 2) = none ∨ nibbleOf (byteAt r 18) = none
        ∨ entryStateOf (byteAt r 20) (fieldAt r 23 4) = none ∨ recordHoldsNothing r = false
        ∨ lastUseOf (byteAt r 27) (fieldAt r 28 4) = none := by
  cases key : keyAt r 0 with
  | none => simp [entryOfRecord, key]
  | some k =>
  cases cls : nibbleOf (byteAt r 11) with
  | none => simp [entryOfRecord, key, cls]
  | some c =>
  cases window : windowOf (fieldAt r 14 2) (fieldAt r 16 2) with
  | none => simp [entryOfRecord, key, cls, window]
  | some w =>
  cases passouts : nibbleOf (byteAt r 18) with
  | none => simp [entryOfRecord, key, cls, window, passouts]
  | some n =>
  cases state : entryStateOf (byteAt r 20) (fieldAt r 23 4) with
  | none => simp [entryOfRecord, key, cls, window, passouts, state]
  | some st =>
  cases use : lastUseOf (byteAt r 27) (fieldAt r 28 4) with
  | none => simp [entryOfRecord, key, cls, window, passouts, state, use]
  | some u =>
    rw [entryOfRecord_of_fields key cls window passouts state use]
    cases padding : k.paddingZero <;> cases holds : recordHoldsNothing r <;> simp [padding]

/-- R12: the key of a record refused, its kind or its padding. -/
theorem keyAt_refused_iff {r : List Byte} (hr : r.length = 32) :
    (keyAt r 0 = none ∨ ∃ key, keyAt r 0 = some key ∧ key.paddingZero = false)
      ↔ (byteAt r 0 < 1 ∨ 4 < byteAt r 0)
        ∨ (byteAt r 0 = 1 ∧ (byteAt r 1 ≠ 0 ∨ byteAt r 2 ≠ 0))
        ∨ (byteAt r 0 = 2 ∧ ∃ i, 5 ≤ i ∧ i ≤ 10 ∧ byteAt r i ≠ 0)
        ∨ (byteAt r 0 = 3 ∧ ∃ i, 8 ≤ i ∧ i ≤ 10 ∧ byteAt r i ≠ 0) := by
  have unlisted := keyKindOf_eq_none_iff (byteAt r 0)
  cases kind : KeyKind.ofCode (byteAt r 0) with
  | none =>
    have bad := unlisted.mp kind
    exact iff_of_true (.inl (by rw [keyAt, kind]; rfl)) (.inl bad)
  | some k =>
    have listed : ¬ (byteAt r 0 < 1 ∨ 4 < byteAt r 0) := fun bad => by
      rw [unlisted.mpr bad] at kind
      cases kind
    have key : keyAt r 0 = some { kind := k, bytes := BitVec.ofNat 80 (fieldAt r 1 10) } := by
      rw [keyAt, kind]
      rfl
    rw [key, or_iff_right listed, ← paddingZero_eq_false_iff hr kind]
    simp

/-- Settles O36: the fields of a record, its reading back, and the checks that refuse one. -/
theorem entryRecordsReadBack : Obligations.EntryRecordsReadBack := by
  refine ⟨fun e => ?_, fun r hr => ?_⟩
  · obtain ⟨cls, groups, passouts, -, state, -, -, useLane⟩ := e.record_fields
    refine ⟨e.record_length, e.record_key, cls, groups, fun h => ?_, fun w h hf hu => ?_, passouts, ?_, fun h => ?_,
      fun u h ht => ⟨?_, ?_⟩, e.read_record⟩
    · exact e.record_window (by rw [h]; rfl) (by rw [h]; rfl) (by decide) (by decide)
    · exact e.record_window (by rw [h]; rfl) (by rw [h]; rfl) hf hu
    · have expires {x : Option Nat} (hx : e.state.expiry = x) (hx' : x.getD 0xFFFFFFFF < 4294967296) :
          fieldAt e.record 23 4 = x.getD 0xFFFFFFFF := e.record_expiry (by rw [hx]) hx'
      cases hs : e.state with
      | held h =>
        obtain ⟨flags, lane, hold⟩ := e.record_of_held (h := h) (by rw [hs]; rfl)
        rw [hs] at state
        refine ⟨flags, state, lane, hold.trans ?_, ?_⟩
        · cases h.purpose <;> cases h.prior <;> rfl
        · have prior : e.state.expiry = h.prior.expiry := by rw [hs]; rfl
          cases hp : h.prior with
          | outOnPassout x => exact expires (x := some x) (by rw [prior, hp]; rfl)
          | _ => exact expires (x := none) (by rw [prior, hp]; rfl) (by decide)
      | outOnPassout x =>
        obtain ⟨flags, lane, hold⟩ := e.record_of_free (by rw [hs]; rfl)
        rw [hs] at state
        exact ⟨flags, lane, hold, state, expires (x := some x) (by rw [hs]; rfl)⟩
      | _ =>
        obtain ⟨flags, lane, hold⟩ := e.record_of_free (by rw [hs]; rfl)
        rw [hs] at state
        exact ⟨flags, lane, hold, state, expires (x := none) (by rw [hs]; rfl) (by decide)⟩
    · exact ⟨useLane.trans (by rw [h]; rfl), e.record_useTime (by rw [h]; rfl) (by decide)⟩
    · rw [useLane, h, Option.elim_some]
      cases u.lane <;> rfl
    · exact e.record_useTime (by rw [h]; rfl) ht
  · intro kind minuteFrom minuteUntil expiry useLane useTime
    rw [entryOfRecord_eq_none_iff, ← or_assoc, keyAt_refused_iff hr, nibbleOf_eq_none_iff, nibbleOf_eq_none_iff,
      windowOf_eq_none_iff, entryStateOf_eq_none_iff, recordHoldsNothing_eq_false_iff, lastUseOf_eq_none_iff]
    simp only [or_assoc]
    exact Iff.rfl

end Sys2Proof.Machine
end
